-- ==== Sys2Proof/Word.lean ====
section
/-!
DEFINITION. Word.lean: the machine words of MBSIM-CODEC (spec/00_scope.md R7, R8, R11; spec/30_encoding.md R39).
-/
namespace Sys2Proof

/-- `u8` of R8: unit identifiers, function codes, byte counts and every byte of a sequence. -/
abbrev Byte := BitVec 8

/-- `u16` of R8: results, the CRC, and the 16-bit header and request fields (R7). -/
abbrev Word := BitVec 16

/-- The 32-bit command word (R39). -/
abbrev CommandWord := BitVec 32

/-- A binary32 bit pattern: sign bit 31, exponent bits 30:23, fraction bits 22:0 (R11, R53). -/
abbrev Binary32 := BitVec 32

/-- A binary64 bit pattern: sign bit 63, exponent bits 62:52, fraction bits 51:0 (R11; decision D10). -/
abbrev Binary64 := BitVec 64

end Sys2Proof
end

