-- ==== Sys2Proof/Syntax.lean ====
section
/-!
DEFINITION. Syntax.lean: the instructions of MBSIM-CODEC, one constructor per row of spec/opcode_table.json: the twenty
command rows (spec/30_encoding.md R40; ENCODE is seven rows) and the four function-code rows (R51).
-/
namespace Sys2Proof

/-- The four supported function codes, PDU byte 0 (R12, R51). -/
inductive FunctionCode where
  | readCoils
  | readDiscreteInputs
  | readHoldingRegisters
  | readInputRegisters
deriving DecidableEq, Repr

/-- The four byte-order variants of a Float32 (R44, R76). -/
inductive ByteOrder where
  | order1234
  | order2143
  | order3412
  | order4321
deriving DecidableEq, Repr

/-- One constructor per row of the opcode table. An operand that stands in the instruction's own bits is an argument
here; an operand that stands on a data port (R20) is read from State. -/
inductive Instr where
  /-- CRC_INIT (R62) -/
  | crcInit
  /-- CRC_UPDATE of the byte in arg8 (R63) -/
  | crcUpdate (data : Byte)
  /-- CRC_READ (R64) -/
  | crcRead
  /-- CRC16 (R65) -/
  | crc16
  /-- CRC_CHECK (R66) -/
  | crcCheck
  /-- ENCODE.BOOL (R72); arg16 is ignored whatever it holds (R41) and kept here so that no bit of the word is lost -/
  | encodeBool (arg16 : Word)
  /-- ENCODE.F32.1234 (R77) -/
  | encodeF32Order1234
  /-- ENCODE.F32.2143 (R78) -/
  | encodeF32Order2143
  /-- ENCODE.F32.3412 (R79) -/
  | encodeF32Order3412
  /-- ENCODE.F32.4321 (R80) -/
  | encodeF32Order4321
  /-- ENCODE.I16S (R82); arg16 ignored (R41) -/
  | encodeI16S (arg16 : Word)
  /-- ENCODE.I16U (R83); arg16 ignored (R41) -/
  | encodeI16U (arg16 : Word)
  /-- PACK_BITS (R88) -/
  | packBits
  /-- PACK_WORDS (R89) -/
  | packWords
  /-- PDU_RESPONSE for the function code in arg8 (R90) -/
  | pduResponse (fc : Byte)
  /-- MBAP_DECODE (R97) -/
  | mbapDecode
  /-- MBAP_ENCODE for the function code in arg8 (R101) -/
  | mbapEncode (fc : Byte)
  /-- RTU_DECODE (R108) -/
  | rtuDecode
  /-- RTU_ENCODE for the function code in arg8 (R110) -/
  | rtuEncode (fc : Byte)
  /-- RTU_FEED of the byte in arg8 (R111) -/
  | rtuFeed (data : Byte)
  /-- FC01.ReadCoils: a request PDU (R45) with function code 0x01 (R91) -/
  | readCoils (start qty : Word)
  /-- FC02.ReadDiscreteInputs: a request PDU with function code 0x02 (R92) -/
  | readDiscreteInputs (start qty : Word)
  /-- FC03.ReadHoldingRegisters: a request PDU with function code 0x03 (R93) -/
  | readHoldingRegisters (start qty : Word)
  /-- FC04.ReadInputRegisters: a request PDU with function code 0x04 (R94) -/
  | readInputRegisters (start qty : Word)
deriving DecidableEq, Repr

/-- What the bits of an instruction are: a 32-bit command word (format CMD32, R39) or the bytes of a request PDU
(format PDU_FC, R45, R51). -/
inductive Code where
  | command (word : CommandWord)
  | pdu (bytes : List Byte)
deriving DecidableEq, Repr

end Sys2Proof
end

