-- ==== Sys2Proof/Decode.lean ====
section
/-!
DEFINITION. Decode.lean: byte order (spec/00_scope.md R9, spec/20_memory.md R29), the decoder of command words and of
request PDUs (spec/30_encoding.md R39 to R45, R51, R52) and, after it, the encoder written from the same tables.
-/
namespace Sys2Proof

/-! ### Byte sequences and byte order -/

/-- `B[i]` of R9. Every rule reads in range; out of range this is 0, which no rule relies on. -/
def byteAt (bytes : List Byte) (i : Nat) : Byte := bytes.getD i 0

/-- `B[i..j)` of R9: elements i to j-1, empty when i >= j. -/
def slice (bytes : List Byte) (i j : Nat) : List Byte := (bytes.drop i).take (j - i)

/-- The u16 with the given high and low byte: `(bx << 8) | by`, the notation `bxby` of R75. -/
def wordOfBytes (hi lo : Byte) : Word := (hi.setWidth 16 <<< 8) ||| lo.setWidth 16

/-- Bits 15:8 of a u16. -/
def highByte (w : Word) : Byte := w.extractLsb' 8 8

/-- Bits 7:0 of a u16. -/
def lowByte (w : Word) : Byte := w.extractLsb' 0 8

/-- `be16(B, i)` (R9): a big-endian u16. -/
def be16At (bytes : List Byte) (i : Nat) : Word := wordOfBytes (byteAt bytes i) (byteAt bytes (i + 1))

/-- `le16(B, i)` (R9): a little-endian u16. -/
def le16At (bytes : List Byte) (i : Nat) : Word := wordOfBytes (byteAt bytes (i + 1)) (byteAt bytes i)

/-- `BE16(w)` (R9): high byte first. -/
def be16Bytes (w : Word) : List Byte := [highByte w, lowByte w]

/-- `LE16(w)` (R9): low byte first. -/
def le16Bytes (w : Word) : List Byte := [lowByte w, highByte w]

/-! ### Fields of a command word (R39) -/

/-- `op = cmd[7:0]`. -/
def cmdOp (w : CommandWord) : Byte := w.extractLsb' 0 8

/-- `arg8 = cmd[15:8]`. -/
def cmdArg8 (w : CommandWord) : Byte := w.extractLsb' 8 8

/-- `arg16 = cmd[31:16]`. -/
def cmdArg16 (w : CommandWord) : Word := w.extractLsb' 16 16

/-- `(arg16 << 16) | (arg8 << 8) | op` (R40). -/
def mkCommand (arg16 : Word) (arg8 op : Byte) : CommandWord :=
  (arg16.setWidth 32 <<< 16) ||| (arg8.setWidth 32 <<< 8) ||| op.setWidth 32

/-! ### Function codes and byte orders -/

/-- The function code of PDU byte 0; every other byte is unsupported (R51, R52). -/
def functionOfByte (b : Byte) : Option FunctionCode :=
  if b = 0x01#8 then some .readCoils
  else if b = 0x02#8 then some .readDiscreteInputs
  else if b = 0x03#8 then some .readHoldingRegisters
  else if b = 0x04#8 then some .readInputRegisters
  else none

/-- PDU byte 0 of a function code (R51). -/
def byteOfFunction (f : FunctionCode) : Byte :=
  match f with
  | .readCoils => 0x01#8
  | .readDiscreteInputs => 0x02#8
  | .readHoldingRegisters => 0x03#8
  | .readInputRegisters => 0x04#8

/-- The byte order that arg16 names (R44); every other value is a configuration error. -/
def orderOfCode (w : Word) : Option ByteOrder :=
  if w = 0x04D2#16 then some .order1234
  else if w = 0x085F#16 then some .order2143
  else if w = 0x0D54#16 then some .order3412
  else if w = 0x10E1#16 then some .order4321
  else none

/-- arg16 of a byte order: the binary value of the decimal label (R44). -/
def codeOfOrder (o : ByteOrder) : Word :=
  match o with
  | .order1234 => 0x04D2#16
  | .order2143 => 0x085F#16
  | .order3412 => 0x0D54#16
  | .order4321 => 0x10E1#16

/-- The ENCODE row of a Float32 byte order (R71). -/
def encodeF32Instr (o : ByteOrder) : Instr :=
  match o with
  | .order1234 => .encodeF32Order1234
  | .order2143 => .encodeF32Order2143
  | .order3412 => .encodeF32Order3412
  | .order4321 => .encodeF32Order4321

/-- The function-code row of a request (R51). -/
def requestInstr (f : FunctionCode) (start qty : Word) : Instr :=
  match f with
  | .readCoils => .readCoils start qty
  | .readDiscreteInputs => .readDiscreteInputs start qty
  | .readHoldingRegisters => .readHoldingRegisters start qty
  | .readInputRegisters => .readInputRegisters start qty

/-! ### The decoder -/

/-- Why bits are no instruction. Each reason is an outcome code of R121 with its info value: the machine goes on. -/
inductive Reject where
  /-- illegal op, or a reserved field that is not zero (R41, R42) -/
  | badCommand (word : CommandWord)
  /-- ENCODE with a dataType code 4 to 255 (R43, R71) -/
  | configType (dataType : Byte)
  /-- ENCODE of Float32 with a byte order not among the four (R44, R71) -/
  | configOrder (byteOrder : Word)
  /-- a request PDU with no function code: its length field is below 2 (R97) -/
  | malformedLength (length : Nat)
  /-- a request PDU with a function code other than 1 to 4 (R52) -/
  | unsupportedFc (fc : Byte)
  /-- a request PDU of function code 1 to 4 shorter than 5 bytes (R97) -/
  | malformedPdu (length : Nat)
deriving DecidableEq, Repr

/-- What the decoder answers: an instruction, or a rejection by name. -/
inductive Decoded where
  | instr (i : Instr)
  | reject (r : Reject)
deriving DecidableEq, Repr

/-- A command whose arg8 and arg16 must both be 0 (R40, R41). -/
def decodeNoArgs (w : CommandWord) (i : Instr) : Decoded :=
  if cmdArg8 w = 0#8 ∧ cmdArg16 w = 0#16 then .instr i else .reject (.badCommand w)

/-- A command that uses arg8 and whose arg16 must be 0 (R40, R41). -/
def decodeByteArg (w : CommandWord) (mk : Byte → Instr) : Decoded :=
  if cmdArg16 w = 0#16 then .instr (mk (cmdArg8 w)) else .reject (.badCommand w)

/-- ENCODE (R71): the data type is checked first, and the byte order only for Float32. -/
def decodeEncode (w : CommandWord) : Decoded :=
  match (cmdArg8 w).toNat with
  | 0 => .instr (.encodeBool (cmdArg16 w))
  | 1 =>
    match orderOfCode (cmdArg16 w) with
    | some o => .instr (encodeF32Instr o)
    | none => .reject (.configOrder (cmdArg16 w))
  | 2 => .instr (.encodeI16S (cmdArg16 w))
  | 3 => .instr (.encodeI16U (cmdArg16 w))
  | _ => .reject (.configType (cmdArg8 w))

/-- The opcode map (R40, R42): total on all 2^32 command words. -/
def decodeCommand (w : CommandWord) : Decoded :=
  match (cmdOp w).toNat with
  | 0x01 => decodeNoArgs w .crcInit
  | 0x02 => decodeByteArg w .crcUpdate
  | 0x03 => decodeNoArgs w .crcRead
  | 0x04 => decodeNoArgs w .crc16
  | 0x05 => decodeNoArgs w .crcCheck
  | 0x10 => decodeEncode w
  | 0x20 => decodeNoArgs w .packBits
  | 0x21 => decodeNoArgs w .packWords
  | 0x22 => decodeByteArg w .pduResponse
  | 0x30 => decodeNoArgs w .mbapDecode
  | 0x31 => decodeByteArg w .mbapEncode
  | 0x40 => decodeNoArgs w .rtuDecode
  | 0x41 => decodeByteArg w .rtuEncode
  | 0x42 => decodeByteArg w .rtuFeed
  | _ => .reject (.badCommand w)

/-- A request PDU (R45, R52), checked in the order R97 gives: room for a function code, the function code, the five
bytes. Bytes after byte 4 are ignored (R99). The length R97 names counts the unitId byte and the PDU. -/
def decodePdu (pdu : List Byte) : Decoded :=
  if pdu.length + 1 < 2 then .reject (.malformedLength (pdu.length + 1))
  else
    match functionOfByte (byteAt pdu 0) with
    | none => .reject (.unsupportedFc (byteAt pdu 0))
    | some f =>
      if pdu.length < 5 then .reject (.malformedPdu (pdu.length + 1))
      else .instr (requestInstr f (be16At pdu 1) (be16At pdu 3))

/-- The decoder, total on any bits. -/
def decode (c : Code) : Decoded :=
  match c with
  | .command w => decodeCommand w
  | .pdu bytes => decodePdu bytes

/-! ### The encoder -/

/-- A request PDU of 5 bytes (R45): function code, then start address and quantity, both big-endian. -/
def requestPdu (f : FunctionCode) (start qty : Word) : List Byte :=
  byteOfFunction f :: (be16Bytes start ++ be16Bytes qty)

/-- The bits of an instruction (R40, R43, R44, R45). -/
def encode (i : Instr) : Code :=
  match i with
  | .crcInit => .command (mkCommand 0#16 0#8 0x01#8)
  | .crcUpdate b => .command (mkCommand 0#16 b 0x02#8)
  | .crcRead => .command (mkCommand 0#16 0#8 0x03#8)
  | .crc16 => .command (mkCommand 0#16 0#8 0x04#8)
  | .crcCheck => .command (mkCommand 0#16 0#8 0x05#8)
  | .encodeBool a => .command (mkCommand a 0#8 0x10#8)
  | .encodeF32Order1234 => .command (mkCommand (codeOfOrder .order1234) 1#8 0x10#8)
  | .encodeF32Order2143 => .command (mkCommand (codeOfOrder .order2143) 1#8 0x10#8)
  | .encodeF32Order3412 => .command (mkCommand (codeOfOrder .order3412) 1#8 0x10#8)
  | .encodeF32Order4321 => .command (mkCommand (codeOfOrder .order4321) 1#8 0x10#8)
  | .encodeI16S a => .command (mkCommand a 2#8 0x10#8)
  | .encodeI16U a => .command (mkCommand a 3#8 0x10#8)
  | .packBits => .command (mkCommand 0#16 0#8 0x20#8)
  | .packWords => .command (mkCommand 0#16 0#8 0x21#8)
  | .pduResponse fc => .command (mkCommand 0#16 fc 0x22#8)
  | .mbapDecode => .command (mkCommand 0#16 0#8 0x30#8)
  | .mbapEncode fc => .command (mkCommand 0#16 fc 0x31#8)
  | .rtuDecode => .command (mkCommand 0#16 0#8 0x40#8)
  | .rtuEncode fc => .command (mkCommand 0#16 fc 0x41#8)
  | .rtuFeed b => .command (mkCommand 0#16 b 0x42#8)
  | .readCoils start qty => .pdu (requestPdu .readCoils start qty)
  | .readDiscreteInputs start qty => .pdu (requestPdu .readDiscreteInputs start qty)
  | .readHoldingRegisters start qty => .pdu (requestPdu .readHoldingRegisters start qty)
  | .readInputRegisters start qty => .pdu (requestPdu .readInputRegisters start qty)

/-! ### The opcode table's numbering of bits -/

/-- The bits `w` of an opcode-table row of `nbits` bits, bits above `nbits` being 0: a command row has up to 32 bits
and is one word; a function-code row gives byte 0 only (8 bits) of a request PDU of 5 bytes, whose byte i is bits
8i+7 to 8i. -/
def tableCode (nbits w : Nat) : Code :=
  if 8 < nbits ∧ nbits ≤ 32 then .command (BitVec.ofNat 32 (w % 2 ^ nbits))
  else .pdu ((List.range 5).map fun i => BitVec.ofNat 8 ((w % 2 ^ nbits) / 2 ^ (8 * i)))

/-- The instruction the decoder reads from those bits; none where it rejects them. -/
def decodeTableWord (nbits w : Nat) : Option Instr :=
  match decode (tableCode nbits w) with
  | .instr i => some i
  | .reject _ => none

end Sys2Proof
end

