-- ==== Sys2Proof/Config.lean ====
section
/-!
DEFINITION. Config.lean: the implementation parameters of spec/00_scope.md R6. The parameters an instance fixes are
the fields of `Params`; the fixed rows of R6 are constants; the draw `NAN_F32` (R74) is a constant without a body.
-/
namespace Sys2Proof.Config

/-- `BIT_COERCE` (R6, R87): which bit a result other than 0 and 1 is packed as. -/
inductive BitCoerce where
  /-- a result packs as 1 exactly when it is not 0 (the default) -/
  | nonzero
  /-- a result packs as its bit 0 -/
  | lsb
deriving DecidableEq, Repr

/-- The parameters that are fixed for the life of a model instance (R6, R21). `UNIT_ID`, which may change at a reset,
is a register of State instead (R17, R21). -/
structure Params where
  /-- `RTU_BUF_CAP`: none is the unbounded buffer of the source; a finite capacity is at least 8 (R6, R113) -/
  rtuBufCap : Option Nat
  /-- `BIT_COERCE` (R87) -/
  bitCoerce : BitCoerce
deriving DecidableEq, Repr

/-- The default parameters of R6: an unbounded buffer, and nonzero coercion. -/
def defaultParams : Params := { rtuBufCap := none, bitCoerce := .nonzero }

/-- `RTU_MIN_FRAME` (R6): the shortest window the framer tests. -/
def rtuMinFrame : Nat := 8

/-- `RTU_REQ_LEN` (R6): the length of an RTU request. -/
def rtuReqLen : Nat := 8

/-- `MBAP_HDR_LEN` (R6): the length of the MBAP header. -/
def mbapHdrLen : Nat := 7

/-- `CRC_INIT_VALUE` (R6). -/
def crcInitValue : Word := 0xFFFF#16

/-- `CRC_POLY_REFLECTED` (R6). -/
def crcPolyReflected : Word := 0xA001#16

/-- FREE VALUE (R74, assumption 3): the raw bits behind the n-th draw of `NAN_F32`. It has no body, so nothing in Lean
can evaluate it: a statement about it holds for every function. `Sys2Proof.Machine.nanOfDraw` turns the raw bits into a
NaN pattern, and every NaN pattern is the image of itself. -/
opaque nanDraw : Nat → Binary32

end Sys2Proof.Config
end

