-- ==== Sys2Proof/Machine/State.lean ====
section
/-!
DEFINITION. Machine/State.lean: everything spec/10_state.md and spec/60_exceptions.md give the machine, as plain data:
its three registers (R13), its parameters (R6), its ports (R20), the reset input (R135) and the host's commands in the
arbiter's order (R31, R34).
-/
namespace Sys2Proof.Machine

/-- The names of the outcome codes (R121). -/
inductive OutcomeCode where
  | ok
  | needMore
  | noFrame
  | closedHeader
  | closedPdu
  | malformedLength
  | malformedPdu
  | unsupportedFc
  | dropUnit
  | dropFc
  | dropLength
  | dropCrc
  | configType
  | configOrder
  | valueError
  | lengthOverflow
  | badCommand
deriving DecidableEq, Repr

/-- What the `info` output can hold: the values of R121's info column (R122). -/
inductive Info where
  /-- a length: the MBAP length field, a frame length or a payload length -/
  | length (n : Nat)
  | fc (b : Byte)
  | unitId (b : Byte)
  | dataType (b : Byte)
  | byteOrder (w : Word)
  | value (v : Binary64)
  | commandWord (w : CommandWord)
deriving DecidableEq, Repr

/-- What a `raise` names (R10): an outcome other than OK, and the info value of its row in R121. -/
structure Raised where
  code : OutcomeCode
  info : Option Info
deriving DecidableEq, Repr

/-- The input data ports (R20), as the host presents them for one command. -/
structure Inputs where
  /-- `din`, a byte sequence -/
  din : List Byte
  /-- `value`, a binary64 -/
  value : Binary64
  /-- `results`, at most 65535 u16 (D37) -/
  results : List Word
  /-- `eof`, one bit -/
  eof : Bool
  /-- `tid`, a u16 -/
  tid : Word
  /-- `uid`, a u8 -/
  uid : Byte
deriving DecidableEq, Repr

/-- Ports on which the host presents nothing: what a command's other ports hold does not matter (R20). -/
def Inputs.idle : Inputs := { din := [], value := 0#64, results := [], eof := false, tid := 0#16, uid := 0#8 }

/-- The output ports (R20). `none` is an output the command's rule does not write: the model gives it no value. -/
structure Outputs where
  /-- `outcome` (R121) -/
  outcome : Option OutcomeCode
  /-- `info` (R122) -/
  info : Option Info
  /-- `dout`, a byte sequence -/
  dout : Option (List Byte)
  /-- `words`, one or two u16 -/
  words : Option (List Word)
  /-- `crc`, a u16 -/
  crc : Option Word
  /-- `match`, one bit -/
  matched : Option Bool
  /-- `tid`, the decoded transactionId -/
  tid : Option Word
  /-- `pid`, the decoded protocolId -/
  pid : Option Word
  /-- `len`, the decoded length field -/
  len : Option Word
  /-- `uid`, the decoded unitId -/
  uid : Option Byte
  /-- `fc`, the decoded function code -/
  fc : Option Byte
  /-- `start`, the decoded start address -/
  start : Option Word
  /-- `qty`, the decoded quantity -/
  qty : Option Word
  /-- `consumed`, how many bytes of `din` the decoded frame holds -/
  consumed : Option Nat
  /-- `frame`, the accepted window -/
  frame : Option (List Byte)
deriving DecidableEq, Repr

/-- Output ports no command has written. -/
def Outputs.idle : Outputs :=
  { outcome := none, info := none, dout := none, words := none, crc := none, matched := none, tid := none, pid := none,
    len := none, uid := none, fc := none, start := none, qty := none, consumed := none, frame := none }

/-- One action of the host (R129), in the order the arbiter gives (R34). -/
inductive HostEvent where
  /-- a command word, or a request PDU for its function-code row (R51), with the data ports presented with it -/
  | present (code : Code) (ports : Inputs)
  /-- the host asserts reset (R129, R135) -/
  | assertReset
  /-- the host configures `UNIT_ID` (R138 (1)) -/
  | configure (unitId : Byte)
  /-- the host releases reset (R138 (3)); that it may also come while reset is not asserted is assumption 17 -/
  | releaseReset
deriving DecidableEq, Repr

/-- The machine's state. -/
structure State where
  /-- `CRC_ACC` (R14) -/
  crcAcc : Word
  /-- `RTU_BUF`, oldest byte first (R18) -/
  rtuBuf : List Byte
  /-- `UNIT_ID` (R17) -/
  unitId : Byte
  /-- whether the reset input is asserted (R135) -/
  inReset : Bool
  /-- `RTU_BUF_CAP` and `BIT_COERCE` (R6, R21): no step changes them -/
  params : Config.Params
  /-- the input ports of the command being executed (R20) -/
  inp : Inputs
  /-- the output ports of the command that has just ended (R20) -/
  out : Outputs
  /-- what the host does next, in the arbiter's order, next first (R31, R34) -/
  inbox : List HostEvent
  /-- the model's own: how many values of `NAN_F32` have been drawn (R74, assumption 3) -/
  nanDraws : Nat
deriving DecidableEq, Repr

/-- The machine right after reset (R22, R135): `CRC_ACC` 0xFFFF, `RTU_BUF` empty, `UNIT_ID` the configured value. The
spec gives `UNIT_ID` no value (it is OPEN); the model names 0x01, the value the test vectors take (assumption 1). The
parameters are R6's defaults (assumption 2). Nothing stands on a port, and the host has issued nothing. -/
def State.reset : State :=
  { crcAcc := 0xFFFF#16, rtuBuf := [], unitId := 0x01#8, inReset := false, params := Config.defaultParams,
    inp := Inputs.idle, out := Outputs.idle, inbox := [], nanDraws := 0 }

/-- The faults of the machine: none. Every error of the block is an outcome code and the machine goes on (R123), no trap
exists (R126) and no command waits (R129), so nothing raises a fault; an empty type is the safe choice, for no behaviour
is left out by it. -/
inductive Fault where
deriving DecidableEq, Repr

/-- Why the model gives an instruction no meaning. -/
inductive Refusal where
  /-- Raised by an arm of `exec` whose instruction has no meaning yet. No arm raises it: every row of the opcode table is
  modelled. Safe: it stops where the hardware goes on. -/
  | notModelled (mnemonic : String)
deriving DecidableEq, Repr

end Sys2Proof.Machine
end

