-- ==== Sys2Proof/Machine/Ops.lean ====
section
/-!
DEFINITION. Machine/Ops.lean: the named operations over the state: registers, ports, the end of a command by `return` or
`raise` (spec/00_scope.md R10), which is all this block has in place of exceptions (spec/60_exceptions.md R123, R126),
and reset and configuration (spec/70_reset_and_hazards.md R135 to R138).
-/
namespace Sys2Proof.Machine

/-- What a step answers. -/
abbrev Answer := Host.Outcome State Fault Refusal

/-! ### Registers -/

/-- `CRC_ACC <- v` (R14). -/
def setCrcAcc (s : State) (v : Word) : State := { s with crcAcc := v }

/-- `RTU_BUF <- v` (R18). -/
def setRtuBuf (s : State) (v : List Byte) : State := { s with rtuBuf := v }

/-- One draw of `NAN_F32` has been used (R74). -/
def advanceDraws (s : State) : State := { s with nanDraws := s.nanDraws + 1 }

/-! ### The end of a command -/

/-- The output ports take the given values, and the command has ended. Every output the command did not write is left
without value (R20). -/
def setOut (s : State) (o : Outputs) : State := { s with out := o }

/-- A command ends with the given outputs: always a next state (R123: an outcome is a value, not a trap). -/
def emit (s : State) (o : Outputs) : Answer := .next (setOut s o)

/-- The outputs of a command that has written nothing but outcome OK (R10 `return`). -/
def okOutputs : Outputs := { Outputs.idle with outcome := some .ok }

/-- The outputs of a command that ends by `raise` (R10, R122): its outcome and its info, and nothing else. -/
def raisedOutputs (r : Raised) : Outputs := { Outputs.idle with outcome := some r.code, info := r.info }

/-- `raise` (R10): the command ends at once with that outcome. -/
def raise (s : State) (r : Raised) : Answer := emit s (raisedOutputs r)

/-- The outputs of a command that puts a byte sequence on `dout`, or raises instead. -/
def doutOutputs (r : Except Raised (List Byte)) : Outputs :=
  match r with
  | .ok bytes => { okOutputs with dout := some bytes }
  | .error e => raisedOutputs e

/-! ### Bits that are no instruction -/

/-- The outcome and info of a rejection by the decoder (R121). -/
def raisedOfReject (r : Reject) : Raised :=
  match r with
  | .badCommand w => { code := .badCommand, info := some (.commandWord w) }
  | .configType t => { code := .configType, info := some (.dataType t) }
  | .configOrder o => { code := .configOrder, info := some (.byteOrder o) }
  | .malformedLength n => { code := .malformedLength, info := some (.length n) }
  | .unsupportedFc fc => { code := .unsupportedFc, info := some (.fc fc) }
  | .malformedPdu n => { code := .malformedPdu, info := some (.length n) }

/-- A command the decoder rejects ends with its outcome and has no other effect (R41, R42, R71). -/
def rejected (r : Reject) (s : State) : Answer := raise s (raisedOfReject r)

/-! ### The host's actions -/

/-- The next host event is taken off the inbox. -/
def popEvent (s : State) (rest : List HostEvent) : State := { s with inbox := rest }

/-- The host presents data on the input ports, and no output of an earlier command is left (R20: nothing on a port
survives the command). -/
def presentPorts (s : State) (ports : Inputs) : State := { s with inp := ports, out := Outputs.idle }

/-- The ports with nothing on them (R20). -/
def clearPorts (s : State) : State := presentPorts s Inputs.idle

/-- The registers a reset sets (R22): `UNIT_ID` keeps the configured value. -/
def resetRegisters (s : State) : State := setRtuBuf (setCrcAcc s Config.crcInitValue) []

/-- Reset is asserted (R135, R137): no command is accepted until it is released. The registers are set at once, and again
at the release (assumption 16). -/
def assertReset (s : State) : State := { resetRegisters (clearPorts s) with inReset := true }

/-- Reset is released: the state is as R22 gives it (R135). R135 speaks only of releasing an asserted reset: that a release
while reset is not asserted sets the registers in the same way is the model's choice (DESIGN CHOICE, unsafe,
assumption 17). -/
def releaseReset (s : State) : State := { resetRegisters (clearPorts s) with inReset := false }

/-- The host configures `UNIT_ID`: it is written only while the block is in reset (R17, R127), and at any other time the
register keeps its value (assumption 5). -/
def configureUnit (s : State) (u : Byte) : State :=
  if s.inReset then { clearPorts s with unitId := u } else clearPorts s

end Sys2Proof.Machine
end

