-- ==== Sys2Proof/Machine/Operands.lean ====
section
/-!
DEFINITION. Machine/Operands.lean: the operand forms of the block: the binary64 `value` port (spec/00_scope.md R11;
spec/42_codec.md R72 to R76, R81), the `results` port (spec/43_pdu.md R86 to R90) and the classes of function codes.
-/
namespace Sys2Proof.Machine

/-! ### The binary64 value (R11)

A finite binary64 is a significand below 2^53 times a power of two: `significandOf v * 2^(scaleOf v)` units of 2^-1074.
Every conversion computes exactly on these natural numbers before it narrows. -/

/-- The sign bit. -/
def signOf (v : Binary64) : Bool := v.getLsbD 63

/-- The biased exponent, bits 62:52. -/
def exponentOf (v : Binary64) : Nat := (v.extractLsb' 52 11).toNat

/-- The fraction, bits 51:0. -/
def fractionOf (v : Binary64) : Nat := (v.extractLsb' 0 52).toNat

/-- `isNaN` (R11). -/
def isNaN (v : Binary64) : Bool := exponentOf v == 2047 && fractionOf v != 0

/-- `isInf` (R11). -/
def isInf (v : Binary64) : Bool := exponentOf v == 2047 && fractionOf v == 0

/-- The significand of a finite binary64: the fraction, with the hidden bit of a normal number. -/
def significandOf (v : Binary64) : Nat := if exponentOf v = 0 then fractionOf v else 2 ^ 52 + fractionOf v

/-- The power of two, in units of 2^-1074, of the significand's last place. -/
def scaleOf (v : Binary64) : Nat := exponentOf v - 1

/-- The magnitude of a finite binary64 in units of 2^-1074, exactly. -/
def magnitude (v : Binary64) : Nat := significandOf v * 2 ^ scaleOf v

/-- `truthy(v)`: `not (v == 0.0)` under IEEE comparison (R72): false for +0.0 and -0.0 only. -/
def truthy (v : Binary64) : Bool := v.extractLsb' 0 63 != 0#63

/-- The integer part of the magnitude: `magnitude v / 2^1074`, by moving the significand. A right move of 53 or more
leaves nothing of a significand below 2^53. -/
def integerPart (v : Binary64) : Nat :=
  if 1074 ≤ scaleOf v then significandOf v * 2 ^ (scaleOf v - 1074)
  else significandOf v / 2 ^ min (1074 - scaleOf v) 53

/-- `trunc(x)` (R8): the integer part of a finite value, rounded toward zero. -/
def truncInt (v : Binary64) : Int := if signOf v then -(integerPart v : Int) else (integerPart v : Int)

/-- `i16_of` (R81): truncated, then kept modulo 65536. -/
def i16Of (v : Binary64) : Except Raised Word :=
  if isNaN v || isInf v then .error { code := .valueError, info := some (.value v) }
  else .ok (BitVec.ofInt 16 (truncInt v))

/-! ### binary64 to binary32 (R73, R74) -/

/-- The quotient of `n` by 2^`q`, rounded to nearest, ties to even. -/
def roundShift (n q : Nat) : Nat :=
  let floor := n / 2 ^ q
  let rest := n % 2 ^ q
  if 2 * rest < 2 ^ q then floor
  else if 2 ^ q < 2 * rest then floor + 1
  else if floor % 2 = 0 then floor else floor + 1

/-- The power of two, in units of 2^-1074, of the last place a binary32 has near the magnitude `m * 2^k`: 2^-149, which
is 2^925 units, for subnormal results, and 24 significant bits otherwise. -/
def lastPlace (m k : Nat) : Nat := max 925 (k + Nat.log2 m - 23)

/-- The magnitude `m * 2^k` (with `m` below 2^53) in units of its last place, rounded to nearest, ties to even. A right
move of 54 or more rounds such an `m` to 0. -/
def roundedSignificand (m k : Nat) : Nat :=
  if lastPlace m k ≤ k then m * 2 ^ (k - lastPlace m k) else roundShift m (min (lastPlace m k - k) 54)

/-- `round_RNE_32` of a finite magnitude, as exponent and fraction fields read as one number, unbounded above. Adding
the rounded significand to the exponent steps carries into the exponent when the significand rounds up to 2^24. -/
def roundedFields (v : Binary64) : Nat :=
  (lastPlace (significandOf v) (scaleOf v) - 925) * 2 ^ 23 + roundedSignificand (significandOf v) (scaleOf v)

/-- The fields of a binary32 infinity, bits 30:0. -/
def infFields : Nat := 0x7F800000

/-- A binary32 pattern from a sign and bits 30:0. -/
def binary32Of (sign : Bool) (fields : Nat) : Binary32 :=
  ((BitVec.ofBool sign).setWidth 32 <<< 31) ||| BitVec.ofNat 32 fields

/-- Whether a binary32 pattern is a NaN: `p[30:23] = 0xFF` and `p[22:0] != 0` (R74). -/
def isNaN32 (p : Binary32) : Bool := p.extractLsb' 23 8 == 0xFF#8 && p.extractLsb' 0 23 != 0#23

/-- The NaN pattern of raw bits: itself when they are one, so that every NaN pattern is reached; otherwise the exponent
field is filled, and an empty fraction becomes its top bit (R74, assumption 3). -/
def asNaN32 (raw : Binary32) : Binary32 :=
  if isNaN32 raw then raw
  else if raw.extractLsb' 0 23 = 0#23 then raw ||| 0x7FC00000#32
  else raw ||| 0x7F800000#32

/-- The n-th draw of `NAN_F32` (R74): a NaN pattern of which nothing else is known. -/
def nanOfDraw (n : Nat) : Binary32 := asNaN32 (Config.nanDraw n)

/-- `f32_of` (R73): a NaN gives the draw, an infinity passes, and a finite value rounds to nearest, ties to even; a
finite value whose rounding is infinite raises VALUE_ERROR. -/
def f32Of (draw : Binary32) (v : Binary64) : Except Raised Binary32 :=
  if isNaN v then .ok draw
  else if isInf v then .ok (binary32Of (signOf v) infFields)
  else if infFields ≤ roundedFields v then .error { code := .valueError, info := some (.value v) }
  else .ok (binary32Of (signOf v) (roundedFields v))

/-- `b0 = p[31:24]` (R53, R75). -/
def float32Byte0 (p : Binary32) : Byte := p.extractLsb' 24 8

/-- `b1 = p[23:16]`. -/
def float32Byte1 (p : Binary32) : Byte := p.extractLsb' 16 8

/-- `b2 = p[15:8]`. -/
def float32Byte2 (p : Binary32) : Byte := p.extractLsb' 8 8

/-- `b3 = p[7:0]`. -/
def float32Byte3 (p : Binary32) : Byte := p.extractLsb' 0 8

/-- `BE32(p)` (R11): the big-endian bytes b0, b1, b2, b3. -/
def be32Bytes (p : Binary32) : List Byte := [float32Byte0 p, float32Byte1 p, float32Byte2 p, float32Byte3 p]

/-- The two words of a Float32 in a byte order (R76). -/
def permuteWords (o : ByteOrder) (p : Binary32) : List Word :=
  match o with
  | .order1234 =>
    [wordOfBytes (float32Byte0 p) (float32Byte1 p), wordOfBytes (float32Byte2 p) (float32Byte3 p)]
  | .order2143 =>
    [wordOfBytes (float32Byte1 p) (float32Byte0 p), wordOfBytes (float32Byte3 p) (float32Byte2 p)]
  | .order3412 =>
    [wordOfBytes (float32Byte2 p) (float32Byte3 p), wordOfBytes (float32Byte0 p) (float32Byte1 p)]
  | .order4321 =>
    [wordOfBytes (float32Byte3 p) (float32Byte2 p), wordOfBytes (float32Byte1 p) (float32Byte0 p)]

/-- The inverses of the permutations (R84), a law for testing: the bytes b0 to b3 from the words. -/
def unpermuteWords (o : ByteOrder) (w0 w1 : Word) : List Byte :=
  match o with
  | .order1234 => [highByte w0, lowByte w0, highByte w1, lowByte w1]
  | .order2143 => [lowByte w0, highByte w0, lowByte w1, highByte w1]
  | .order3412 => [highByte w1, lowByte w1, highByte w0, lowByte w0]
  | .order4321 => [lowByte w1, highByte w1, lowByte w0, highByte w0]

/-! ### The results (R86 to R89) -/

/-- Function codes 1 and 2 are bit reads, 3 and 4 word reads (R86). -/
def isBitRead (f : FunctionCode) : Bool :=
  match f with
  | .readCoils => true
  | .readDiscreteInputs => true
  | .readHoldingRegisters => false
  | .readInputRegisters => false

/-- `bit(r)` (R87). -/
def coerceBit (mode : Config.BitCoerce) (r : Word) : Bool :=
  match mode with
  | .nonzero => r != 0#16
  | .lsb => r.getLsbD 0

/-- Whether result `i` exists and packs as 1. -/
def resultBit (mode : Config.BitCoerce) (results : List Word) (i : Nat) : Bool :=
  match results[i]? with
  | some r => coerceBit mode r
  | none => false

/-- Byte `j` of the packed bits (R88): bit `k` is the bit of result `8j + k`, and a bit with no result is 0. -/
def packedByte (mode : Config.BitCoerce) (results : List Word) (j : Nat) : Byte :=
  (List.range 8).foldl (fun acc k => if resultBit mode results (8 * j + k) then acc ||| (1#8 <<< k) else acc) 0#8

/-- PACK_BITS (R88): result i at byte i div 8, bit i mod 8, in `ceil(q/8)` bytes. -/
def packBits (mode : Config.BitCoerce) (results : List Word) : List Byte :=
  (List.range ((results.length + 7) / 8)).map (packedByte mode results)

/-- PACK_WORDS (R89): each result big-endian. -/
def packWords (results : List Word) : List Byte := results.flatMap be16Bytes

/-- The payload of a response (R86, R90). -/
def payload (mode : Config.BitCoerce) (f : FunctionCode) (results : List Word) : List Byte :=
  if isBitRead f then packBits mode results else packWords results

/-- The response PDU (R46, R90), shared by PDU_RESPONSE, MBAP_ENCODE, RTU_ENCODE and the function-code rows:
UNSUPPORTED_FC first, then LENGTH_OVERFLOW (R124). -/
def responsePdu (mode : Config.BitCoerce) (fc : Byte) (results : List Word) : Except Raised (List Byte) :=
  match functionOfByte fc with
  | none => .error { code := .unsupportedFc, info := some (.fc fc) }
  | some f =>
    if 255 < (payload mode f results).length then
      .error { code := .lengthOverflow, info := some (.length (payload mode f results).length) }
    else .ok ([fc, BitVec.ofNat 8 (payload mode f results).length] ++ payload mode f results)

end Sys2Proof.Machine
end

