-- ==== Sys2Proof/Machine/Codec.lean ====
section
/-!
DEFINITION. Machine/Codec.lean: the value codec (spec/42_codec.md): the seven rows of ENCODE. A dataType or byte order
that names no row is rejected by the decoder (Decode.lean `decodeEncode`) and ends as Ops.lean `rejected` says.
-/
namespace Sys2Proof.Machine

/-- Whether the command uses a draw of `NAN_F32`: an ENCODE of Float32 does when its value is a NaN (R74). -/
def afterDraw (s : State) : State := if isNaN s.inp.value then advanceDraws s else s

/-- The outputs of a Float32 ENCODE (R75 to R80): the words, or VALUE_ERROR. -/
def f32Outputs (o : ByteOrder) (draw : Binary32) (v : Binary64) : Outputs :=
  match f32Of draw v with
  | .ok p => { okOutputs with words := some (permuteWords o p) }
  | .error e => raisedOutputs e

/-- ENCODE of Float32 in a byte order (R73 to R80). -/
def encodeF32 (o : ByteOrder) (s : State) : Answer :=
  emit (afterDraw s) (f32Outputs o (nanOfDraw s.nanDraws) s.inp.value)

/-- The outputs of an Int16 ENCODE (R81): one word, or VALUE_ERROR. -/
def i16Outputs (v : Binary64) : Outputs :=
  match i16Of v with
  | .ok w => { okOutputs with words := some [w] }
  | .error e => raisedOutputs e

/-- ENCODE.BOOL (R72): arg16 is ignored (R41). -/
def execEncodeBool (_arg16 : Word) (s : State) : Answer :=
  emit s { okOutputs with words := some [if truthy s.inp.value then 1#16 else 0#16] }

/-- ENCODE.F32.1234 (R77). -/
def execEncodeF32Order1234 (s : State) : Answer := encodeF32 .order1234 s

/-- ENCODE.F32.2143 (R78). -/
def execEncodeF32Order2143 (s : State) : Answer := encodeF32 .order2143 s

/-- ENCODE.F32.3412 (R79). -/
def execEncodeF32Order3412 (s : State) : Answer := encodeF32 .order3412 s

/-- ENCODE.F32.4321 (R80). -/
def execEncodeF32Order4321 (s : State) : Answer := encodeF32 .order4321 s

/-- ENCODE.I16S (R82): arg16 is ignored (R41). -/
def execEncodeI16S (_arg16 : Word) (s : State) : Answer := emit s (i16Outputs s.inp.value)

/-- ENCODE.I16U (R83): arg16 is ignored (R41). -/
def execEncodeI16U (_arg16 : Word) (s : State) : Answer := emit s (i16Outputs s.inp.value)

end Sys2Proof.Machine
end

