-- ==== Sys2Proof/Machine/Crc.lean ====
section
/-!
DEFINITION. Machine/Crc.lean: the CRC-16 calculator (spec/41_crc.md): the function of R61 and the commands CRC_INIT,
CRC_UPDATE, CRC_READ, CRC16 and CRC_CHECK.
-/
namespace Sys2Proof.Machine

/-- One of the 8 shifts of `crc_step` (R61). -/
def crcShift (a : Word) : Word := if a.getLsbD 0 then (a >>> 1) ^^^ Config.crcPolyReflected else a >>> 1

/-- `crc_step(a, b)` (R61): the byte goes into the low byte, then 8 shifts. -/
def crcStep (a : Word) (b : Byte) : Word := Nat.repeat crcShift 8 (a ^^^ b.setWidth 16)

/-- The private accumulator after the bytes of a sequence, from a given start (R61, R69). -/
def crcFrom (a : Word) (bytes : List Byte) : Word := bytes.foldl crcStep a

/-- `crc16(B)` (R61). -/
def crc16 (bytes : List Byte) : Word := crcFrom Config.crcInitValue bytes

/-- The check of CRC_CHECK and of the framer (R66, R111): fewer than two bytes hold no trailer. -/
def trailerMatches (bytes : List Byte) : Bool :=
  if bytes.length < 2 then false
  else crc16 (slice bytes 0 (bytes.length - 2)) == le16At bytes (bytes.length - 2)

/-- CRC_INIT (R62). -/
def execCrcInit (s : State) : Answer := emit (setCrcAcc s Config.crcInitValue) okOutputs

/-- CRC_UPDATE (R63). -/
def execCrcUpdate (data : Byte) (s : State) : Answer := emit (setCrcAcc s (crcStep s.crcAcc data)) okOutputs

/-- CRC_READ (R64). -/
def execCrcRead (s : State) : Answer := emit s { okOutputs with crc := some s.crcAcc }

/-- CRC16 (R65): `CRC_ACC` is neither read nor written. -/
def execCrc16 (s : State) : Answer := emit s { okOutputs with crc := some (crc16 s.inp.din) }

/-- CRC_CHECK (R66): a mismatch is an output, not an error. -/
def execCrcCheck (s : State) : Answer := emit s { okOutputs with matched := some (trailerMatches s.inp.din) }

end Sys2Proof.Machine
end

