-- ==== Sys2Proof/Machine/Flags.lean ====
section
/-!
DEFINITION. Machine/Flags.lean: the block has no flags and no condition codes (spec/10_state.md R16). What stands in
their place is the outcome of a command; this file gives the outcomes their numbers (spec/60_exceptions.md R121).
-/
namespace Sys2Proof.Machine

/-- The number of an outcome on the `outcome` output (R121). -/
def outcomeNumber (c : OutcomeCode) : Byte :=
  match c with
  | .ok => 0x00#8
  | .needMore => 0x01#8
  | .noFrame => 0x02#8
  | .closedHeader => 0x10#8
  | .closedPdu => 0x11#8
  | .malformedLength => 0x12#8
  | .malformedPdu => 0x13#8
  | .unsupportedFc => 0x14#8
  | .dropUnit => 0x20#8
  | .dropFc => 0x21#8
  | .dropLength => 0x22#8
  | .dropCrc => 0x23#8
  | .configType => 0x30#8
  | .configOrder => 0x31#8
  | .valueError => 0x32#8
  | .lengthOverflow => 0x33#8
  | .badCommand => 0x3F#8

end Sys2Proof.Machine
end

