-- ==== Sys2Proof/Machine/Mbap.lean ====
section
/-!
DEFINITION. Machine/Mbap.lean: the Modbus/TCP frame decoder and encoder (spec/44_mbap.md): MBAP_DECODE and MBAP_ENCODE.
-/
namespace Sys2Proof.Machine

/-- The outputs of a complete MBAP frame (R97, from the check of the length field on). `L` is the length field and
`pdu` the `L - 1` bytes after the header. The protocolId and the unitId are not checked (R100). -/
def mbapFrameOutputs (din pdu : List Byte) : Outputs :=
  match functionOfByte (byteAt pdu 0) with
  | none => raisedOutputs { code := .unsupportedFc, info := some (.fc (byteAt pdu 0)) }
  | some _ =>
    if pdu.length < 5 then
      raisedOutputs { code := .malformedPdu, info := some (.length (be16At din 4).toNat) }
    else
      { okOutputs with
          tid := some (be16At din 0), pid := some (be16At din 2), len := some (be16At din 4),
          uid := some (byteAt din 6), fc := some (byteAt pdu 0), start := some (be16At pdu 1),
          qty := some (be16At pdu 3), consumed := some (6 + (be16At din 4).toNat) }

/-- The outputs of MBAP_DECODE (R97), in the order of its pseudocode; `L` of the rule is `be16At din 4`. -/
def mbapOutputs (din : List Byte) (eof : Bool) : Outputs :=
  if din.length < Config.mbapHdrLen then
    if eof then raisedOutputs { code := .closedHeader, info := none }
    else raisedOutputs { code := .needMore, info := none }
  else if (be16At din 4).toNat < 2 then
    raisedOutputs { code := .malformedLength, info := some (.length (be16At din 4).toNat) }
  else if din.length < 6 + (be16At din 4).toNat then
    if eof then raisedOutputs { code := .closedPdu, info := none }
    else raisedOutputs { code := .needMore, info := none }
  else mbapFrameOutputs din (slice din 7 (6 + (be16At din 4).toNat))

/-- MBAP_DECODE (R97): `UNIT_ID` is not read. -/
def execMbapDecode (s : State) : Answer := emit s (mbapOutputs s.inp.din s.inp.eof)

/-- The MBAP response frame around a PDU (R101, R102): protocolId 0, and a length that counts unitId and PDU. -/
def mbapFrame (tid : Word) (uid : Byte) (pdu : List Byte) : List Byte :=
  be16Bytes tid ++ be16Bytes 0#16 ++ be16Bytes (BitVec.ofNat 16 (pdu.length + 1)) ++ [uid] ++ pdu

/-- MBAP_ENCODE (R101). -/
def execMbapEncode (fc : Byte) (s : State) : Answer :=
  emit s (doutOutputs ((responsePdu s.params.bitCoerce fc s.inp.results).map (mbapFrame s.inp.tid s.inp.uid)))

end Sys2Proof.Machine
end

