-- ==== Sys2Proof/Machine/Pdu.lean ====
section
/-!
DEFINITION. Machine/Pdu.lean: the response payload (spec/43_pdu.md): PACK_BITS, PACK_WORDS, PDU_RESPONSE, and the four
function-code rows, each the answer to a request PDU.
-/
namespace Sys2Proof.Machine

/-- PACK_BITS (R88): the byte count is not checked. -/
def execPackBits (s : State) : Answer :=
  emit s { okOutputs with dout := some (packBits s.params.bitCoerce s.inp.results) }

/-- PACK_WORDS (R89). -/
def execPackWords (s : State) : Answer := emit s { okOutputs with dout := some (packWords s.inp.results) }

/-- PDU_RESPONSE (R90). -/
def execPduResponse (fc : Byte) (s : State) : Answer :=
  emit s (doutOutputs (responsePdu s.params.bitCoerce fc s.inp.results))

/-- The outputs of a request PDU of function code `f` (R91 to R94): the decoded request and its response PDU, built from
the results the host passes for it (R128 (1)); LENGTH_OVERFLOW when they do not fit (R90). -/
def requestOutputs (mode : Config.BitCoerce) (f : FunctionCode) (start qty : Word) (results : List Word) : Outputs :=
  match responsePdu mode (byteOfFunction f) results with
  | .ok pdu =>
    { okOutputs with fc := some (byteOfFunction f), start := some start, qty := some qty, dout := some pdu }
  | .error e => raisedOutputs e

/-- The answer to a request PDU (assumption 6). -/
def serveRequest (f : FunctionCode) (start qty : Word) (s : State) : Answer :=
  emit s (requestOutputs s.params.bitCoerce f start qty s.inp.results)

/-- FC01.ReadCoils (R91). -/
def execReadCoils (start qty : Word) (s : State) : Answer := serveRequest .readCoils start qty s

/-- FC02.ReadDiscreteInputs (R92). -/
def execReadDiscreteInputs (start qty : Word) (s : State) : Answer := serveRequest .readDiscreteInputs start qty s

/-- FC03.ReadHoldingRegisters (R93). -/
def execReadHoldingRegisters (start qty : Word) (s : State) : Answer := serveRequest .readHoldingRegisters start qty s

/-- FC04.ReadInputRegisters (R94). -/
def execReadInputRegisters (start qty : Word) (s : State) : Answer := serveRequest .readInputRegisters start qty s

end Sys2Proof.Machine
end

