-- ==== Sys2Proof/Machine/Rtu.lean ====
section
/-!
DEFINITION. Machine/Rtu.lean: the RTU frame decoder and encoder and the stream framer (spec/45_rtu.md): RTU_DECODE,
RTU_ENCODE and RTU_FEED.
-/
namespace Sys2Proof.Machine

/-- The outputs of RTU_DECODE of a frame (R108), in the order of its pseudocode: length, trailer, unit, function code. -/
def rtuOutputs (unitId : Byte) (din : List Byte) : Outputs :=
  if din.length ≠ Config.rtuReqLen then
    raisedOutputs { code := .dropLength, info := some (.length din.length) }
  else if crc16 (slice din 0 6) ≠ le16At din 6 then raisedOutputs { code := .dropCrc, info := none }
  else if byteAt din 0 ≠ unitId then raisedOutputs { code := .dropUnit, info := some (.unitId (byteAt din 0)) }
  else
    match functionOfByte (byteAt din 1) with
    | none => raisedOutputs { code := .dropFc, info := some (.fc (byteAt din 1)) }
    | some _ =>
      { okOutputs with
          uid := some (byteAt din 0), fc := some (byteAt din 1), start := some (be16At din 2),
          qty := some (be16At din 4) }

/-- RTU_DECODE (R108). -/
def execRtuDecode (s : State) : Answer := emit s (rtuOutputs s.unitId s.inp.din)

/-- The RTU response frame around a PDU (R50, R107, R110): the unit before it, the trailer after it. -/
def rtuFrame (unitId : Byte) (pdu : List Byte) : List Byte :=
  ([unitId] ++ pdu) ++ le16Bytes (crc16 ([unitId] ++ pdu))

/-- RTU_ENCODE (R110). -/
def execRtuEncode (fc : Byte) (s : State) : Answer :=
  emit s (doutOutputs ((responsePdu s.params.bitCoerce fc s.inp.results).map (rtuFrame s.unitId)))

/-- `RTU_BUF` after a byte is appended (R111): with a finite capacity the oldest byte goes when it would be exceeded
(R113). -/
def appendByte (cap : Option Nat) (buf : List Byte) (b : Byte) : List Byte :=
  match cap with
  | none => buf ++ [b]
  | some c => if c < (buf ++ [b]).length then (buf ++ [b]).drop 1 else buf ++ [b]

/-- The window of length `len`: the last `len` bytes of the buffer (R12, R111). -/
def windowOf (buf : List Byte) (len : Nat) : List Byte := buf.drop (buf.length - len)

/-- The first window whose trailer matches, tried at lengths 8, 9, ... up to the buffer's (R111). A buffer of fewer than
8 bytes has no window. -/
def acceptedWindow (buf : List Byte) : Option (List Byte) :=
  ((List.range' Config.rtuMinFrame (buf.length + 1 - Config.rtuMinFrame)).map (windowOf buf)).find? trailerMatches

/-- RTU_FEED on the buffer that already holds the new byte (R111, R112): an accepted window empties the buffer and ends
as RTU_DECODE of it, with the window on `frame`; otherwise the bytes are kept. -/
def scanBuffer (s : State) (buf : List Byte) : Answer :=
  match acceptedWindow buf with
  | some w => emit (setRtuBuf s []) { rtuOutputs s.unitId w with frame := some w }
  | none => raise (setRtuBuf s buf) { code := .noFrame, info := none }

/-- RTU_FEED (R111). -/
def execRtuFeed (data : Byte) (s : State) : Answer :=
  scanBuffer s (appendByte s.params.rtuBufCap s.rtuBuf data)

end Sys2Proof.Machine
end

