-- ==== Sys2Proof/Machine/Dispatch.lean ====
section
/-!
DEFINITION. Machine/Dispatch.lean: one arm per row of spec/opcode_table.json, each one call of that row's meaning.
-/
namespace Sys2Proof.Machine
open Sys2Proof

def exec (i : Instr) (s : State) : Host.Outcome State Fault Refusal :=
  match i with
  | .crcInit => Sys2Proof.Machine.execCrcInit s
  | .crcUpdate data => Sys2Proof.Machine.execCrcUpdate data s
  | .crcRead => Sys2Proof.Machine.execCrcRead s
  | .crc16 => Sys2Proof.Machine.execCrc16 s
  | .crcCheck => Sys2Proof.Machine.execCrcCheck s
  | .encodeBool arg16 => Sys2Proof.Machine.execEncodeBool arg16 s
  | .encodeF32Order1234 => Sys2Proof.Machine.execEncodeF32Order1234 s
  | .encodeF32Order2143 => Sys2Proof.Machine.execEncodeF32Order2143 s
  | .encodeF32Order3412 => Sys2Proof.Machine.execEncodeF32Order3412 s
  | .encodeF32Order4321 => Sys2Proof.Machine.execEncodeF32Order4321 s
  | .encodeI16S arg16 => Sys2Proof.Machine.execEncodeI16S arg16 s
  | .encodeI16U arg16 => Sys2Proof.Machine.execEncodeI16U arg16 s
  | .packBits => Sys2Proof.Machine.execPackBits s
  | .packWords => Sys2Proof.Machine.execPackWords s
  | .pduResponse fc => Sys2Proof.Machine.execPduResponse fc s
  | .mbapDecode => Sys2Proof.Machine.execMbapDecode s
  | .mbapEncode fc => Sys2Proof.Machine.execMbapEncode fc s
  | .rtuDecode => Sys2Proof.Machine.execRtuDecode s
  | .rtuEncode fc => Sys2Proof.Machine.execRtuEncode fc s
  | .rtuFeed data => Sys2Proof.Machine.execRtuFeed data s
  | .readCoils start qty => Sys2Proof.Machine.execReadCoils start qty s
  | .readDiscreteInputs start qty => Sys2Proof.Machine.execReadDiscreteInputs start qty s
  | .readHoldingRegisters start qty => Sys2Proof.Machine.execReadHoldingRegisters start qty s
  | .readInputRegisters start qty => Sys2Proof.Machine.execReadInputRegisters start qty s

end Sys2Proof.Machine
end

