-- ==== Sys2Proof/Machine/Step.lean ====
section
/-!
DEFINITION. Machine/Step.lean: one step of the block: the next action of the host, in the arbiter's order
(spec/20_memory.md R31, R34). A command is one atomic step; the block with nothing to do waits (spec/70 R136).
-/
namespace Sys2Proof.Machine

/-- The bits the host has presented are decoded and run, on the state the ports stand in. Bits the decoder rejects end
with the rejection's outcome (R41, R42, R71). -/
def runCode (c : Code) (s : State) : Host.Outcome State Fault Refusal :=
  match decode c with
  | .instr i => exec i s
  | .reject r => rejected r s

/-- A command reaches the block: while reset is asserted it is not accepted and has no effect (R135); otherwise it runs
on the ports presented with it. -/
def runPresented (c : Code) (ports : Inputs) (s : State) : Host.Outcome State Fault Refusal :=
  if s.inReset then .next (clearPorts s) else runCode c (presentPorts s ports)

/-- One step. -/
def step (s : State) : Host.Outcome State Fault Refusal :=
  match s.inbox with
  | [] => .next (clearPorts s)
  | .present c ports :: rest => runPresented c ports (popEvent s rest)
  | .assertReset :: rest => .next (assertReset (popEvent s rest))
  | .configure u :: rest => .next (configureUnit (popEvent s rest) u)
  | .releaseReset :: rest => .next (releaseReset (popEvent s rest))

/-- The state with an opcode-table row's bits presented next, on the input ports as they stand in `s`, and with reset
not asserted, so that the very next step runs it (assumption 8). -/
def State.withFetchWord (s : State) (nbits w : Nat) : State :=
  { s with inReset := false, inbox := .present (tableCode nbits w) s.inp :: s.inbox }

end Sys2Proof.Machine
end

