-- ==== Sys2Proof/Machine/Assembly.lean ====
section
/-!
DEFINITION. Machine/Assembly.lean: the assembler lines of spec/30_encoding.md R56 and the pseudo-instructions of R57, as
the host events they stand for. The line is held as its parsed form; a port a line does not name is presented idle.
-/
namespace Sys2Proof.Machine

/-- One line of R56, or a pseudo-instruction of R57. -/
inductive AsmLine where
  | crcInit
  | crcUpdate (b : Byte)
  | crcRead
  | crc16 (bytes : List Byte)
  | crcCheck (bytes : List Byte)
  | encodeBool (value : Binary64)
  | encodeF32 (order : ByteOrder) (value : Binary64)
  | encodeI16S (value : Binary64)
  | encodeI16U (value : Binary64)
  | packBits (results : List Word)
  | packWords (results : List Word)
  | pduResponse (fc : Byte) (results : List Word)
  | mbapDecode (bytes : List Byte) (eof : Bool)
  | mbapEncode (fc : Byte) (tid : Word) (uid : Byte) (results : List Word)
  | rtuDecode (bytes : List Byte)
  | rtuEncode (fc : Byte) (results : List Word)
  | rtuFeed (b : Byte)
  /-- `CRC_SEQ b0, ..., bn-1` (R57) -/
  | crcSeq (bytes : List Byte)
  /-- `RTU_FEED_SEQ b0, ..., bn-1` (R57) -/
  | rtuFeedSeq (bytes : List Byte)
deriving DecidableEq, Repr

/-- A command presented with data on its ports. -/
def presented (i : Instr) (ports : Inputs) : HostEvent := .present (encode i) ports

/-- The events of a line (R56, R57). The canonical word of a command that ignores arg16 has arg16 = 0 (R72, R82, R83). -/
def assemble (line : AsmLine) : List HostEvent :=
  match line with
  | .crcInit => [presented .crcInit Inputs.idle]
  | .crcUpdate b => [presented (.crcUpdate b) Inputs.idle]
  | .crcRead => [presented .crcRead Inputs.idle]
  | .crc16 bytes => [presented .crc16 { Inputs.idle with din := bytes }]
  | .crcCheck bytes => [presented .crcCheck { Inputs.idle with din := bytes }]
  | .encodeBool v => [presented (.encodeBool 0#16) { Inputs.idle with value := v }]
  | .encodeF32 o v => [presented (encodeF32Instr o) { Inputs.idle with value := v }]
  | .encodeI16S v => [presented (.encodeI16S 0#16) { Inputs.idle with value := v }]
  | .encodeI16U v => [presented (.encodeI16U 0#16) { Inputs.idle with value := v }]
  | .packBits rs => [presented .packBits { Inputs.idle with results := rs }]
  | .packWords rs => [presented .packWords { Inputs.idle with results := rs }]
  | .pduResponse fc rs => [presented (.pduResponse fc) { Inputs.idle with results := rs }]
  | .mbapDecode bytes eof => [presented .mbapDecode { Inputs.idle with din := bytes, eof := eof }]
  | .mbapEncode fc tid uid rs =>
    [presented (.mbapEncode fc) { Inputs.idle with tid := tid, uid := uid, results := rs }]
  | .rtuDecode bytes => [presented .rtuDecode { Inputs.idle with din := bytes }]
  | .rtuEncode fc rs => [presented (.rtuEncode fc) { Inputs.idle with results := rs }]
  | .rtuFeed b => [presented (.rtuFeed b) Inputs.idle]
  | .crcSeq bytes =>
    presented .crcInit Inputs.idle :: bytes.map (fun b => presented (.crcUpdate b) Inputs.idle) ++
      [presented .crcRead Inputs.idle]
  | .rtuFeedSeq bytes => bytes.map fun b => presented (.rtuFeed b) Inputs.idle

end Sys2Proof.Machine
end

