-- ==== Sys2Proof/Machine/Session.lean ====
section
/-!
DEFINITION. Machine/Session.lean: the host programs over the block that the spec gives: what each outcome means for a
connection or a serial line (spec/44_mbap.md R98, spec/45_rtu.md R109, R114), one round of the TCP handler's loop (R103)
and of the serial reader's (R117), and the addresses of results (spec/20_memory.md R27, R28). The synthesizer itself is
outside the block (spec/00_scope.md R4): it stands in a round as a function from a function code and an address to a word,
and in a session as one such function for each round, since every result is drawn afresh (spec/60_exceptions.md R128 (2)).
-/
namespace Sys2Proof.Machine

/-- The address that `results[i]` stands for: an unbounded integer, not wrapped (R27). -/
def resultAddress (start : Word) (i : Nat) : Nat := start.toNat + i

/-- The displayed base of a function code (R28). -/
def displayBase (f : FunctionCode) : Nat :=
  match f with
  | .readCoils => 0
  | .readDiscreteInputs => 10000
  | .readHoldingRegisters => 40000
  | .readInputRegisters => 30000

/-- The wire offset of a displayed address: `displayedAddress - base - 1` (R28). -/
def wireOffset (f : FunctionCode) (displayed : Nat) : Int := (displayed : Int) - displayBase f - 1

/-- One result per requested address, in address order (R128 (1)). -/
def synthesize (synth : Byte → Nat → Word) (fc : Byte) (start qty : Word) : List Word :=
  (List.range qty.toNat).map fun i => synth fc (resultAddress start i)

/-- What the TCP host does on an outcome of MBAP_DECODE. -/
inductive TcpAction where
  | answer
  | wait
  | close
deriving DecidableEq, Repr

/-- R98, R103: OK is answered, NEED_MORE waits, and every other outcome closes the connection. -/
def tcpAction (c : OutcomeCode) : TcpAction :=
  if c = .ok then .answer else if c = .needMore then .wait else .close

/-- What the serial host does on an outcome of RTU_FEED. -/
inductive RtuAction where
  | answer
  | nothingYet
  | ignore
deriving DecidableEq, Repr

/-- R114: OK is a request to answer, NO_FRAME is nothing yet, and a DROP is a frame consumed and ignored (R109). -/
def rtuAction (c : OutcomeCode) : RtuAction :=
  if c = .ok then .answer else if c = .noFrame then .nothingYet else .ignore

/-- The host issues one command, with data on its ports, before anything else it does. -/
def issue (s : State) (i : Instr) (ports : Inputs) : Host.Outcome State Fault Refusal :=
  step { s with inbox := .present (encode i) ports :: s.inbox }

/-- Instructions run one after another on a state, the ports standing as they are. -/
def runInstrs (is : List Instr) (s : State) : Host.Outcome State Fault Refusal :=
  match is with
  | [] => .next s
  | i :: rest =>
    match exec i s with
    | .next t => runInstrs rest t
    | .fault r => .fault r
    | .refused r => .refused r

/-- What a round leaves: the block, the bytes written to the connection or line, the received bytes that are kept, and
what the host does with the connection. -/
structure TcpRound where
  state : State
  written : List Byte
  rest : List Byte
  action : TcpAction
deriving DecidableEq, Repr

/-- The answer to a decoded request: MBAP_ENCODE with the decoded fc, tid and uid; the frame is written and `consumed`
bytes are dropped, and an outcome other than OK closes the connection without writing (R103). -/
def tcpAnswer (synth : Byte → Nat → Word) (t : State) (received : List Byte) : TcpRound :=
  let fc := t.out.fc.getD 0#8
  let results := synthesize synth fc (t.out.start.getD 0#16) (t.out.qty.getD 0#16)
  let ports := { Inputs.idle with tid := t.out.tid.getD 0#16, uid := t.out.uid.getD 0#8, results := results }
  match issue t (.mbapEncode fc) ports with
  | .next u =>
    match u.out.dout with
    | some bytes => { state := u, written := bytes, rest := received.drop (t.out.consumed.getD 0), action := .answer }
    | none => { state := u, written := [], rest := received, action := .close }
  | .fault r => nomatch r
  | .refused _ => { state := t, written := [], rest := received, action := .close }

/-- One round of the connection handler's loop on the bytes received since the last frame (R103). A block in reset
accepts no command (R135), and the host waits. -/
def tcpRound (synth : Byte → Nat → Word) (s : State) (received : List Byte) (eof : Bool) : TcpRound :=
  match issue s .mbapDecode { Inputs.idle with din := received, eof := eof } with
  | .next t =>
    match t.out.outcome.map tcpAction with
    | some .answer => tcpAnswer synth t received
    | some .close => { state := t, written := [], rest := received, action := .close }
    | some .wait => { state := t, written := [], rest := received, action := .wait }
    | none => { state := t, written := [], rest := received, action := .wait }
  | .fault r => nomatch r
  | .refused _ => { state := s, written := [], rest := received, action := .close }

/-- The rounds of one connection on bytes already received, at most `fuel` of them: each request is answered before the
next is read (R103). `draws k` is the synthesizer as the k-th round from here finds it: a repeated address may get another
result in a later round (R128 (2), U23; assumption 15). -/
def tcpSession (draws : Nat → Byte → Nat → Word) (fuel : Nat) (s : State) (received : List Byte) (eof : Bool) : TcpRound :=
  match fuel with
  | 0 => { state := s, written := [], rest := received, action := .wait }
  | n + 1 =>
    let r := tcpRound (draws 0) s received eof
    match r.action with
    | .answer =>
      let later := tcpSession (fun k => draws (k + 1)) n r.state r.rest eof
      { later with written := r.written ++ later.written }
    | .wait => r
    | .close => r

/-- What one byte from the serial line leaves: the block and the bytes written to the line. -/
structure RtuRound where
  state : State
  written : List Byte
deriving DecidableEq, Repr

/-- The answer to an accepted request: RTU_ENCODE with the decoded fc; an outcome other than OK writes nothing (R117). -/
def rtuAnswer (synth : Byte → Nat → Word) (t : State) : RtuRound :=
  let fc := t.out.fc.getD 0#8
  let results := synthesize synth fc (t.out.start.getD 0#16) (t.out.qty.getD 0#16)
  match issue t (.rtuEncode fc) { Inputs.idle with results := results } with
  | .next u => { state := u, written := u.out.dout.getD [] }
  | .fault r => nomatch r
  | .refused _ => { state := t, written := [] }

/-- One round of the serial reader's loop (R117): the byte is fed, and only an OK is answered. -/
def rtuRound (synth : Byte → Nat → Word) (s : State) (b : Byte) : RtuRound :=
  match issue s (.rtuFeed b) Inputs.idle with
  | .next t =>
    match t.out.outcome.map rtuAction with
    | some .answer => rtuAnswer synth t
    | some .nothingYet => { state := t, written := [] }
    | some .ignore => { state := t, written := [] }
    | none => { state := t, written := [] }
  | .fault r => nomatch r
  | .refused _ => { state := s, written := [] }

/-- The serial reader's loop over the bytes of one line, in arrival order (R117, R128 (6)). `draws k` is the synthesizer as the feed
of the k-th byte finds it, so a repeated address may get another result later (R128 (2), U23; assumption 15). -/
def rtuSession (draws : Nat → Byte → Nat → Word) (s : State) (bytes : List Byte) : RtuRound :=
  match bytes with
  | [] => { state := s, written := [] }
  | b :: rest =>
    let r := rtuRound (draws 0) s b
    let later := rtuSession (fun k => draws (k + 1)) r.state rest
    { later with written := r.written ++ later.written }

end Sys2Proof.Machine
end

