-- ==== Sys2Proof/WellFormed.lean ====
section
/-!
DEFINITION. WellFormed.lean: which data the hardware can hold. An operand of an instruction is as wide as its field, so
every instruction is well formed (no operand value is reserved: an unsupported function code is an outcome, R90). What
has a bound of its own is checked here: the results port (spec/10_state.md R20), the parameters (spec/00_scope.md R6)
and the buffer (R18).
-/
namespace Sys2Proof

/-- An instruction is well formed when its encoding is one the encoding tables give: a command word, or a request PDU of
exactly 5 bytes (R39, R45). -/
def Code.wf : Code → Bool
  | .command _ => true
  | .pdu bytes => bytes.length == 5

/-- `RTU_BUF_CAP` is none or at least 8 (R6). -/
def Config.Params.wf (p : Config.Params) : Bool :=
  match p.rtuBufCap with
  | none => true
  | some cap => 8 ≤ cap

namespace Machine

/-- The results port carries at most 65535 words (R20, decision D37). -/
def Inputs.wf (p : Inputs) : Bool := p.results.length ≤ 65535

/-- A host event carries ports the hardware has. -/
def HostEvent.wf (e : HostEvent) : Bool :=
  match e with
  | .present _ ports => ports.wf
  | .assertReset => true
  | .configure _ => true
  | .releaseReset => true

/-- A state the hardware can hold: legal parameters, a buffer within its capacity (R18), and ports within theirs. -/
def State.wf (s : State) : Bool :=
  s.params.wf && (match s.params.rtuBufCap with | none => true | some cap => decide (s.rtuBuf.length ≤ cap)) &&
    s.inp.wf && s.inbox.all HostEvent.wf

end Machine
end Sys2Proof
end

