-- ==== Sys2Proof/Safety.lean ====
section
/-!
DEFINITION. Safety.lean: what counts as a safe state and a safe run of the block, in the terms the statements use.
-/
namespace Sys2Proof.Machine

/-- No window of length 8 up to the buffer's at its end carries a matching trailer (spec/10_state.md R19): a frame that
is complete is never left in the buffer. -/
def NoWindowMatches (buf : List Byte) : Prop :=
  ∀ len, 8 ≤ len → len ≤ buf.length → trailerMatches (windowOf buf len) = false

/-- The buffer is within a finite capacity (R18). -/
def WithinCapacity (s : State) : Prop := ∀ cap, s.params.rtuBufCap = some cap → s.rtuBuf.length ≤ cap

/-- The invariant of the framer: its buffer is within its capacity and holds no complete frame at its end. -/
def FramerInv (s : State) : Prop := WithinCapacity s ∧ NoWindowMatches s.rtuBuf

/-- The block takes the step: it neither stops nor waits (R129). -/
def Proceeds (s : State) : Prop := ∃ t, step s = .next t

/-- The run of `n` steps from a state completes. -/
def RunsFor (n : Nat) (s : State) : Prop :=
  match n with
  | 0 => True
  | k + 1 => ∃ t, step s = .next t ∧ RunsFor k t

/-- The outcome a command ended with is among the given ones. -/
def EndsWithin (codes : List OutcomeCode) (a : Host.Outcome State Fault Refusal) : Prop :=
  ∃ t c, a = .next t ∧ t.out.outcome = some c ∧ c ∈ codes

/-! ### Outcomes (spec/60_exceptions.md) -/

/-- The outcomes R121 lets each command end with, once its word is decoded (the "raised by" column, with OK). R121
lists none for a function-code row: that it ends as the response build of its results does is the model's choice, read from
R91 to R94 (assumption 6). RTU_FEED cannot end with DROP_CRC (R111). -/
def allowedOutcomes (i : Instr) : List OutcomeCode :=
  match i with
  | .crcInit => [.ok]
  | .crcUpdate _ => [.ok]
  | .crcRead => [.ok]
  | .crc16 => [.ok]
  | .crcCheck => [.ok]
  | .encodeBool _ => [.ok]
  | .encodeF32Order1234 => [.ok, .valueError]
  | .encodeF32Order2143 => [.ok, .valueError]
  | .encodeF32Order3412 => [.ok, .valueError]
  | .encodeF32Order4321 => [.ok, .valueError]
  | .encodeI16S _ => [.ok, .valueError]
  | .encodeI16U _ => [.ok, .valueError]
  | .packBits => [.ok]
  | .packWords => [.ok]
  | .pduResponse _ => [.ok, .unsupportedFc, .lengthOverflow]
  | .mbapDecode =>
    [.ok, .needMore, .closedHeader, .closedPdu, .malformedLength, .unsupportedFc, .malformedPdu]
  | .mbapEncode _ => [.ok, .unsupportedFc, .lengthOverflow]
  | .rtuDecode => [.ok, .dropLength, .dropCrc, .dropUnit, .dropFc]
  | .rtuEncode _ => [.ok, .unsupportedFc, .lengthOverflow]
  | .rtuFeed _ => [.noFrame, .ok, .dropLength, .dropUnit, .dropFc]
  | .readCoils _ _ => [.ok, .lengthOverflow]
  | .readDiscreteInputs _ _ => [.ok, .lengthOverflow]
  | .readHoldingRegisters _ _ => [.ok, .lengthOverflow]
  | .readInputRegisters _ _ => [.ok, .lengthOverflow]

/-- Whether R121's row for an outcome names an info value (R122). -/
def namesInfo (c : OutcomeCode) : Bool :=
  match c with
  | .ok => false
  | .needMore => false
  | .noFrame => false
  | .closedHeader => false
  | .closedPdu => false
  | .malformedLength => true
  | .malformedPdu => true
  | .unsupportedFc => true
  | .dropUnit => true
  | .dropFc => true
  | .dropLength => true
  | .dropCrc => false
  | .configType => true
  | .configOrder => true
  | .valueError => true
  | .lengthOverflow => true
  | .badCommand => true

/-- The outputs of a command that ends with an outcome other than OK, written out (R10, R122). -/
def raisedWith (c : OutcomeCode) (info : Option Info) : Outputs :=
  { Outputs.idle with outcome := some c, info := info }

/-! ### Numbers (spec/00_scope.md R8, R11; spec/42_codec.md R73) -/

/-- The exact magnitude of a finite binary64, in units of 2^-1074, from its exponent and fraction fields. -/
def exactMagnitude (v : Binary64) : Nat :=
  if (v.extractLsb' 52 11).toNat = 0 then (v.extractLsb' 0 52).toNat
  else (2 ^ 52 + (v.extractLsb' 0 52).toNat) * 2 ^ ((v.extractLsb' 52 11).toNat - 1)

/-- A finite binary64: its exponent field is not all ones. -/
def FiniteValue (v : Binary64) : Prop := v.extractLsb' 52 11 ≠ 0x7FF#11

/-- A binary64 NaN: its exponent field is all ones and its fraction is not zero. -/
def NanValue (v : Binary64) : Prop := v.extractLsb' 52 11 = 0x7FF#11 ∧ v.extractLsb' 0 52 ≠ 0#52

/-- A binary32 NaN pattern (R74). -/
def NanPattern (p : Binary32) : Prop := p.extractLsb' 23 8 = 0xFF#8 ∧ p.extractLsb' 0 23 ≠ 0#23

/-- The magnitude of a finite binary32 in units of 2^-1074, from bits 30:0 read as one number. -/
def binary32Magnitude (fields : Nat) : Nat :=
  if fields / 2 ^ 23 = 0 then fields * 2 ^ 925
  else (2 ^ 23 + fields % 2 ^ 23) * 2 ^ (fields / 2 ^ 23 - 1 + 925)

/-- How far apart two magnitudes are. -/
def distance (a b : Nat) : Nat := (a - b) + (b - a)

/-- `fields` is the finite binary32 nearest to the magnitude `m`, and of two nearest ones the even one (R73). -/
def NearestEven (m fields : Nat) : Prop :=
  fields < 0x7F800000 ∧
    ∀ other, other < 0x7F800000 →
      distance m (binary32Magnitude fields) ≤ distance m (binary32Magnitude other) ∧
        (distance m (binary32Magnitude fields) = distance m (binary32Magnitude other) →
          other = fields ∨ fields % 2 = 0)

/-! ### The framer's buffer (spec/45_rtu.md R111, R113) -/

/-- `RTU_BUF` after RTU_FEED has appended its byte and, with a finite capacity, dropped the oldest byte. -/
def bufferAfterFeed (s : State) (b : Byte) : List Byte :=
  match s.params.rtuBufCap with
  | none => s.rtuBuf ++ [b]
  | some cap => if cap < s.rtuBuf.length + 1 then (s.rtuBuf ++ [b]).drop 1 else s.rtuBuf ++ [b]

/-- A response of function code `f` for `q` results fits its byte count (R95). -/
def ResponseFits (f : FunctionCode) (q : Nat) : Prop :=
  match f with
  | .readCoils => (q + 7) / 8 ≤ 255
  | .readDiscreteInputs => (q + 7) / 8 ≤ 255
  | .readHoldingRegisters => 2 * q ≤ 255
  | .readInputRegisters => 2 * q ≤ 255

/-- How many payload bytes `q` results take (R86). -/
def payloadLength (f : FunctionCode) (q : Nat) : Nat :=
  match f with
  | .readCoils => (q + 7) / 8
  | .readDiscreteInputs => (q + 7) / 8
  | .readHoldingRegisters => 2 * q
  | .readInputRegisters => 2 * q

end Sys2Proof.Machine
end

