-- ==== Sys2Proof/Certificates/Slice0/Obligations.lean ====
section
/-!
DEFINITION. Certificates/Slice0/Obligations.lean: the statements for the provers. Each docstring names the rule of spec/
it formalises. An output that a statement's `Outputs.idle with` does not list is left without value.
-/
open Sys2Proof Sys2Proof.Machine

/-! ## Encoding -/

/-- R40, R43, R44, R45: no bit of an encoding is dropped: decoding an instruction's own bits gives it back. -/
def Obligations.DecodeOfEncodeIsIdentity : Prop := ∀ i : Instr, decode (encode i) = .instr i

/-- R39, R40, R45: each word, and each request PDU of exactly 5 bytes, has one meaning: encoding what it decodes to gives
its bits back. -/
def Obligations.EncodeOfDecodeIsIdentity : Prop :=
  ∀ (c : Code) (i : Instr), c.wf = true → decode c = .instr i → encode i = c

/-- R40, R44, R45, R51: words written out from the encoding tables decode to the instructions they stand for. -/
def Obligations.TableWordsDecodeRight : Prop :=
  decode (.command 0x0000AB02#32) = .instr (.crcUpdate 0xAB#8) ∧
    decode (.command 0x0D540110#32) = .instr .encodeF32Order3412 ∧
    decode (.command 0x00000322#32) = .instr (.pduResponse 0x03#8) ∧
    decode (.command 0x00000030#32) = .instr .mbapDecode ∧
    decode (.command 0x00000541#32) = .instr (.rtuEncode 0x05#8) ∧
    decode (.pdu [0x03#8, 0x00#8, 0x6B#8, 0x00#8, 0x03#8]) = .instr (.readHoldingRegisters 0x006B#16 0x0003#16)

/-- R42: an op outside the opcode map ends the command with BAD_COMMAND, whose info is the command word, and has no other
effect. -/
def Obligations.IllegalOpEndsWithBadCommand : Prop :=
  ∀ (s : State) (w : CommandWord),
    w.extractLsb' 0 8 ∉ [0x01#8, 0x02#8, 0x03#8, 0x04#8, 0x05#8, 0x10#8, 0x20#8, 0x21#8, 0x22#8, 0x30#8, 0x31#8, 0x40#8,
      0x41#8, 0x42#8] →
    runCode (.command w) s = .next { s with out := raisedWith .badCommand (some (.commandWord w)) }

/-- R41: a "must be 0" field that is not zero ends the command with BAD_COMMAND and no other effect; the one exception is
ENCODE of a type other than Float32, which runs the same whatever arg16 holds. -/
def Obligations.ReservedFieldEndsWithBadCommand : Prop :=
  (∀ (s : State) (w : CommandWord),
    (w.extractLsb' 0 8 ∈ [0x01#8, 0x03#8, 0x04#8, 0x05#8, 0x20#8, 0x21#8, 0x30#8, 0x40#8] ∧
        (w.extractLsb' 8 8 ≠ 0#8 ∨ w.extractLsb' 16 16 ≠ 0#16)) ∨
      (w.extractLsb' 0 8 ∈ [0x02#8, 0x22#8, 0x31#8, 0x41#8, 0x42#8] ∧ w.extractLsb' 16 16 ≠ 0#16) →
    runCode (.command w) s = .next { s with out := raisedWith .badCommand (some (.commandWord w)) }) ∧
  ∀ (s : State) (v w : CommandWord),
    v.extractLsb' 0 8 = 0x10#8 → w.extractLsb' 0 8 = 0x10#8 → v.extractLsb' 8 8 = w.extractLsb' 8 8 →
    v.extractLsb' 8 8 ≠ 0x01#8 → runCode (.command v) s = runCode (.command w) s

/-- R43, R44, R71: ENCODE with a dataType code 4 to 255 ends with CONFIG_TYPE, and ENCODE of Float32 with a byte order
other than the four ends with CONFIG_ORDER, whatever the value port holds; no state is written. -/
def Obligations.EncodeConfigurationErrors : Prop :=
  (∀ (s : State) (w : CommandWord), w.extractLsb' 0 8 = 0x10#8 → 4 ≤ (w.extractLsb' 8 8).toNat →
    runCode (.command w) s = .next { s with out := raisedWith .configType (some (.dataType (w.extractLsb' 8 8))) }) ∧
  ∀ (s : State) (w : CommandWord), w.extractLsb' 0 16 = 0x0110#16 →
    w.extractLsb' 16 16 ∉ [0x04D2#16, 0x085F#16, 0x0D54#16, 0x10E1#16] →
    runCode (.command w) s = .next { s with out := raisedWith .configOrder (some (.byteOrder (w.extractLsb' 16 16))) }

/-! ## The step, reset and the ports -/

/-- R31, R39: when the host presents bits next, and reset is not asserted, a step is runCode of them on the state with the
ports presented, no output left from before, and the event taken off the inbox, whether the bits decode or are rejected
(R41, R42, R71); where they decode to an instruction, the step is exec of it on that state. So every statement about
runCode or exec is one about a step. -/
def Obligations.StepRunsDecodedInstruction : Prop :=
  ∀ (s t : State) (c : Code) (ports : Inputs) (rest : List HostEvent),
    s.inReset = false → s.inbox = .present c ports :: rest →
    t = { s with inp := ports, out := Outputs.idle, inbox := rest } →
    step s = runCode c t ∧ ∀ i, decode c = .instr i → step s = exec i t

/-- R129, R123: every state takes a step to a next state: nothing waits, traps or stops. -/
def Obligations.EveryStepProceeds : Prop := ∀ s : State, Proceeds s

/-- R22: the accumulator and the buffer right after reset. -/
def Obligations.ResetRegisterValues : Prop := State.reset.crcAcc = 0xFFFF#16 ∧ State.reset.rtuBuf = []

/-- R135, R137, R138: from any state, asserting reset, presenting a command while it is asserted, configuring `UNIT_ID`
and releasing reset leaves `CRC_ACC` 0xFFFF, `RTU_BUF` empty and `UNIT_ID` as configured; the command has had no effect
(that it is dropped and not kept is assumption 5). -/
def Obligations.ResetSequenceLeavesResetValues : Prop :=
  ∀ (s : State) (c : Code) (ports : Inputs) (u : Byte) (rest : List HostEvent),
    s.inbox = .assertReset :: .present c ports :: .configure u :: .releaseReset :: rest →
    Host.Core.run core 4 s =
      .next { s with crcAcc := 0xFFFF#16, rtuBuf := [], unitId := u, inReset := false, inp := Inputs.idle,
                     out := Outputs.idle, inbox := rest }

/-- R17, R21, R127: a step changes `UNIT_ID` only by a configuration while reset is asserted, and never changes a
parameter. -/
def Obligations.UnitIdWrittenOnlyInReset : Prop :=
  ∀ s t : State, step s = .next t →
    t.params = s.params ∧
      (t.unitId ≠ s.unitId → s.inReset = true ∧ ∃ rest, s.inbox = .configure t.unitId :: rest)

/-- R20: nothing on a port survives the command: a step answers the same whatever the ports held before it. -/
def Obligations.NothingOnPortsSurvives : Prop :=
  ∀ (s : State) (p : Inputs) (o : Outputs), step { s with inp := p, out := o } = step s

/-! ## Frames and outcomes -/

/-- R14, R17, R18, R33: `CRC_ACC` is written by CRC_INIT and CRC_UPDATE only, `RTU_BUF` by RTU_FEED only, and `UNIT_ID` by
no command. The other clauses are about fields of the model's own: the count of draws moves only at an ENCODE of Float32 of
a NaN (assumption 3, DESIGN CHOICE), and no command touches the parameters (assumption 2), the input ports (assumption 4),
the reset input or the inbox (assumptions 8 and 16). -/
def Obligations.CommandsWriteTheirOwnStateOnly : Prop :=
  ∀ (i : Instr) (s t : State), exec i s = .next t →
    (t.crcAcc ≠ s.crcAcc → i = .crcInit ∨ ∃ b, i = .crcUpdate b) ∧
      (t.rtuBuf ≠ s.rtuBuf → ∃ b, i = .rtuFeed b) ∧
      (t.nanDraws ≠ s.nanDraws → (∃ o, i = encodeF32Instr o) ∧ NanValue s.inp.value) ∧
      t.unitId = s.unitId ∧ t.inReset = s.inReset ∧ t.params = s.params ∧ t.inp = s.inp ∧ t.inbox = s.inbox

/-- R123: a command that ends with an outcome other than OK writes no state, except RTU_FEED, which has appended its byte
or, where a window matched, emptied the buffer. -/
def Obligations.FailedCommandsWriteNoState : Prop :=
  ∀ (c : Code) (s t : State), runCode c s = .next t → t.out.outcome ≠ some .ok →
    ((∀ b, decode c ≠ .instr (.rtuFeed b)) → t = { s with out := t.out }) ∧
      ∀ b, decode c = .instr (.rtuFeed b) →
        t = { s with rtuBuf := if t.out.outcome = some .noFrame then bufferAfterFeed s b else [], out := t.out }

/-- R121: every command, decoded or rejected, ends with exactly one outcome, on a next state. -/
def Obligations.EveryCommandEndsWithAnOutcome : Prop :=
  ∀ (c : Code) (s : State), ∃ t code, runCode c s = .next t ∧ t.out.outcome = some code

/-- R121, R124: each command ends only with an outcome its rule names. R121 lists none for the four function-code rows: OK
and LENGTH_OVERFLOW for them are the model's choice (assumption 6, DESIGN CHOICE), read from R91 to R94. -/
def Obligations.OutcomesAreTheNamedOnes : Prop :=
  ∀ (i : Instr) (s : State), EndsWithin (allowedOutcomes i) (exec i s)

/-- R122, R10: info has a value exactly when the outcome's row names one, and a command that raises leaves every other
output without value, but for the frame an RTU_FEED has accepted. -/
def Obligations.InfoFollowsTheOutcome : Prop :=
  ∀ (c : Code) (s t : State) (code : OutcomeCode), runCode c s = .next t → t.out.outcome = some code →
    t.out.info.isSome = namesInfo code ∧
      (code ≠ .ok → t.out = { Outputs.idle with outcome := some code, info := t.out.info, frame := t.out.frame }) ∧
      (t.out.frame ≠ none → ∃ b, decode c = .instr (.rtuFeed b))

/-- R121: the numbers of the outcomes are distinct, and stand where the table says. -/
def Obligations.OutcomeNumbersAreDistinct : Prop :=
  (∀ a b : OutcomeCode, outcomeNumber a = outcomeNumber b → a = b) ∧
    outcomeNumber .ok = 0x00#8 ∧ outcomeNumber .needMore = 0x01#8 ∧ outcomeNumber .noFrame = 0x02#8 ∧
    outcomeNumber .closedHeader = 0x10#8 ∧ outcomeNumber .closedPdu = 0x11#8 ∧ outcomeNumber .malformedLength = 0x12#8 ∧
    outcomeNumber .malformedPdu = 0x13#8 ∧ outcomeNumber .unsupportedFc = 0x14#8 ∧ outcomeNumber .dropUnit = 0x20#8 ∧
    outcomeNumber .dropFc = 0x21#8 ∧ outcomeNumber .dropLength = 0x22#8 ∧ outcomeNumber .dropCrc = 0x23#8 ∧
    outcomeNumber .configType = 0x30#8 ∧ outcomeNumber .configOrder = 0x31#8 ∧ outcomeNumber .valueError = 0x32#8 ∧
    outcomeNumber .lengthOverflow = 0x33#8 ∧ outcomeNumber .badCommand = 0x3F#8

/-- R13, R34, R106: the outputs of every command but CRC_READ and RTU_FEED depend only on the input ports, `UNIT_ID`, the
parameters and (for a NaN) the draw, never on the accumulator or the buffer; but for RTU_DECODE and RTU_ENCODE, not on
`UNIT_ID` either (R100). -/
def Obligations.OutputsDependOnOperandsAlone : Prop :=
  ∀ (i : Instr) (s₁ s₂ t₁ t₂ : State), i ≠ .crcRead → (∀ b, i ≠ .rtuFeed b) → s₁.inp = s₂.inp →
    s₁.params = s₂.params → s₁.nanDraws = s₂.nanDraws →
    (s₁.unitId = s₂.unitId ∨ (i ≠ .rtuDecode ∧ ∀ fc, i ≠ .rtuEncode fc)) →
    exec i s₁ = .next t₁ → exec i s₂ = .next t₂ → t₁.out = t₂.out

/-! ## CRC-16 -/

/-- R61: the byte is XORed into the accumulator, then 8 shifts with the constant 0xA001; the CRC of a sequence starts at
0xFFFF and takes its bytes in order. -/
def Obligations.CrcFunctionFollowsRule : Prop :=
  (∀ (a : Word) (b : Byte),
    crcStep a b =
      (fun x : Word => if x.getLsbD 0 = true then (x >>> 1) ^^^ 0xA001#16 else x >>> 1)^[8] (a ^^^ b.setWidth 16)) ∧
    crc16 [] = 0xFFFF#16 ∧ ∀ (bytes : List Byte) (b : Byte), crc16 (bytes ++ [b]) = crcStep (crc16 bytes) b

/-- R62. -/
def Obligations.CrcInitResult : Prop :=
  encode .crcInit = .command 0x00000001#32 ∧
    ∀ s : State,
      exec .crcInit s = .next { s with crcAcc := 0xFFFF#16, out := { Outputs.idle with outcome := some .ok } }

/-- R63. -/
def Obligations.CrcUpdateResult : Prop :=
  ∀ (s : State) (b : Byte),
    encode (.crcUpdate b) = .command ((b.setWidth 32 <<< 8) ||| 0x02#32) ∧
      exec (.crcUpdate b) s =
        .next { s with crcAcc := crcStep s.crcAcc b, out := { Outputs.idle with outcome := some .ok } }

/-- R64. -/
def Obligations.CrcReadResult : Prop :=
  encode .crcRead = .command 0x00000003#32 ∧
    ∀ s : State,
      exec .crcRead s = .next { s with out := { Outputs.idle with outcome := some .ok, crc := some s.crcAcc } }

/-- R65: `CRC_ACC` is neither read nor written. -/
def Obligations.CrcOneShotResult : Prop :=
  encode .crc16 = .command 0x00000004#32 ∧
    ∀ s : State,
      exec .crc16 s = .next { s with out := { Outputs.idle with outcome := some .ok, crc := some (crc16 s.inp.din) } }

/-- R66: fewer than two bytes give match = 0; otherwise the last two bytes, low byte first, are compared with the CRC of
the bytes before them. -/
def Obligations.CrcCheckResult : Prop :=
  encode .crcCheck = .command 0x00000005#32 ∧
    (∀ s : State, s.inp.din.length < 2 →
      exec .crcCheck s = .next { s with out := { Outputs.idle with outcome := some .ok, matched := some false } }) ∧
    ∀ (s : State) (body : List Byte) (lo hi : Byte), s.inp.din = body ++ [lo, hi] →
      exec .crcCheck s =
        .next { s with out := { Outputs.idle with
          outcome := some .ok,
          matched := some (decide ((crc16 body).toNat = lo.toNat + 256 * hi.toNat)) } }

/-- R69, R57: the streaming sequence CRC_INIT, CRC_UPDATE of each byte, CRC_READ, issued from any state out of reset,
outputs the CRC of the bytes, leaves it in `CRC_ACC`, and changes no other register. -/
def Obligations.StreamingCrcEqualsOneShot : Prop :=
  ∀ (s : State) (bytes : List Byte) (rest : List HostEvent),
    s.inReset = false → s.inbox = assemble (.crcSeq bytes) ++ rest →
    Host.Core.run core (bytes.length + 2) s =
      .next { s with crcAcc := crc16 bytes, inp := Inputs.idle, inbox := rest,
                     out := { Outputs.idle with outcome := some .ok, crc := some (crc16 bytes) } }

/-- R67: the residue law: a frame with a correct trailer has CRC zero over all its bytes, and CRC_CHECK of two bytes or
more gives match = 1 exactly when the CRC of all of them is zero. -/
def Obligations.CrcResidueLaw : Prop :=
  (∀ bytes : List Byte, crc16 (bytes ++ le16Bytes (crc16 bytes)) = 0x0000#16) ∧
    ∀ s : State, 2 ≤ s.inp.din.length →
      ∃ t, exec .crcCheck s = .next t ∧ (t.out.matched = some true ↔ crc16 s.inp.din = 0x0000#16)

/-- R68: a step of the CRC is a bijection of the accumulator for each byte. -/
def Obligations.CrcStepIsBijective : Prop := ∀ b : Byte, Function.Bijective fun a : Word => crcStep a b

/-! ## Value codec -/

/-- R72: +0.0 and -0.0 give 0 and every other value, NaN and infinities included, gives 1; arg16 does not matter. -/
def Obligations.EncodeBoolResult : Prop :=
  encode (.encodeBool 0x0000#16) = .command 0x00000010#32 ∧
    ∀ (s : State) (arg16 : Word),
      exec (.encodeBool arg16) s =
        .next { s with out := { Outputs.idle with
          outcome := some .ok,
          words := some [if s.inp.value = 0x0000000000000000#64 ∨ s.inp.value = 0x8000000000000000#64
            then 0x0000#16 else 0x0001#16] } }

/-- R75 to R80: where the conversion of the value gives a pattern, the two words are its bytes b0 to b3 in the order the
command names, and nothing but the outputs (and the count of draws, for a NaN) changes. -/
def Obligations.EncodeFloat32WordOrder : Prop :=
  ∀ (s : State) (o : ByteOrder) (p : Binary32) (b0 b1 b2 b3 : Byte),
    f32Of (nanOfDraw s.nanDraws) s.inp.value = .ok p →
    b0 = p.extractLsb' 24 8 → b1 = p.extractLsb' 16 8 → b2 = p.extractLsb' 8 8 → b3 = p.extractLsb' 0 8 →
    exec (encodeF32Instr o) s =
      .next { s with
        nanDraws := if isNaN s.inp.value = true then s.nanDraws + 1 else s.nanDraws,
        out := { Outputs.idle with
          outcome := some .ok,
          words := some (match o with
            | .order1234 => [wordOfBytes b0 b1, wordOfBytes b2 b3]
            | .order2143 => [wordOfBytes b1 b0, wordOfBytes b3 b2]
            | .order3412 => [wordOfBytes b2 b3, wordOfBytes b0 b1]
            | .order4321 => [wordOfBytes b3 b2, wordOfBytes b1 b0]) } }

/-- R73: a finite value below the overflow threshold becomes the nearest binary32, ties to even, with the value's sign,
subnormal results kept; the command completes with its words. -/
def Obligations.EncodeFloat32RoundsToNearestEven : Prop :=
  ∀ (s : State) (o : ByteOrder), FiniteValue s.inp.value →
    exactMagnitude s.inp.value < (2 ^ 128 - 2 ^ 103) * 2 ^ 1074 →
    ∃ p : Binary32,
      exec (encodeF32Instr o) s =
          .next { s with out := { Outputs.idle with outcome := some .ok, words := some (permuteWords o p) } } ∧
        p.getLsbD 31 = s.inp.value.getLsbD 63 ∧
        NearestEven (exactMagnitude s.inp.value) (p.extractLsb' 0 31).toNat

/-- R73: a finite value raises VALUE_ERROR, with the value as info, exactly when its magnitude is at least
2^128 - 2^103. -/
def Obligations.EncodeFloat32OverflowThreshold : Prop :=
  ∀ (s : State) (o : ByteOrder), FiniteValue s.inp.value →
    (exec (encodeF32Instr o) s = .next { s with out := raisedWith .valueError (some (.value s.inp.value)) } ↔
      (2 ^ 128 - 2 ^ 103) * 2 ^ 1074 ≤ exactMagnitude s.inp.value)

/-- R73: the infinities convert without error. -/
def Obligations.EncodeFloat32Infinities : Prop :=
  ∀ (s : State) (o : ByteOrder) (negative : Bool),
    s.inp.value = (if negative then 0xFFF0000000000000#64 else 0x7FF0000000000000#64) →
    exec (encodeF32Instr o) s =
      .next { s with out := { Outputs.idle with
        outcome := some .ok,
        words := some (permuteWords o (if negative then 0xFF800000#32 else 0x7F800000#32)) } }

/-- R74: an ENCODE of a NaN completes with the words of some NaN pattern, drawn afresh (the draw is the free value of
assumption 3: this statement holds for every function that supplies it), and every NaN pattern is admitted as a draw. -/
def Obligations.EncodeFloat32OfNan : Prop :=
  (∀ (s : State) (o : ByteOrder), NanValue s.inp.value →
    ∃ p : Binary32, NanPattern p ∧
      exec (encodeF32Instr o) s =
        .next { s with
          nanDraws := s.nanDraws + 1,
          out := { Outputs.idle with outcome := some .ok, words := some (permuteWords o p) } }) ∧
    ∀ p : Binary32, NanPattern p → asNaN32 p = p

/-- R84: the inverse of a byte order's permutation, applied to the words of the command, gives the big-endian bytes of
the converted value. -/
def Obligations.Float32PermutationRoundTrip : Prop :=
  ∀ (s : State) (o : ByteOrder) (p : Binary32), f32Of (nanOfDraw s.nanDraws) s.inp.value = .ok p →
    ∃ t w0 w1, exec (encodeF32Instr o) s = .next t ∧ t.out.words = some [w0, w1] ∧
      (match o with
        | .order1234 => [w0.extractLsb' 8 8, w0.extractLsb' 0 8, w1.extractLsb' 8 8, w1.extractLsb' 0 8]
        | .order2143 => [w0.extractLsb' 0 8, w0.extractLsb' 8 8, w1.extractLsb' 0 8, w1.extractLsb' 8 8]
        | .order3412 => [w1.extractLsb' 8 8, w1.extractLsb' 0 8, w0.extractLsb' 8 8, w0.extractLsb' 0 8]
        | .order4321 => [w1.extractLsb' 0 8, w1.extractLsb' 8 8, w0.extractLsb' 0 8, w0.extractLsb' 8 8]) =
        be32Bytes p

/-- R81, R82, R83: a finite value is truncated toward zero and kept modulo 65536, the same word for both types and for
every arg16; a NaN or an infinity raises VALUE_ERROR. -/
def Obligations.EncodeInt16Result : Prop :=
  ∀ (s : State) (arg16 : Word) (i : Instr), i = .encodeI16S arg16 ∨ i = .encodeI16U arg16 →
    (FiniteValue s.inp.value →
      ∃ w : Word,
        exec i s = .next { s with out := { Outputs.idle with outcome := some .ok, words := some [w] } } ∧
          (w.toNat : Int) =
            (if s.inp.value.getLsbD 63 = true then -((exactMagnitude s.inp.value / 2 ^ 1074 : Nat) : Int)
              else ((exactMagnitude s.inp.value / 2 ^ 1074 : Nat) : Int)) % 65536) ∧
      (¬ FiniteValue s.inp.value →
        exec i s = .next { s with out := raisedWith .valueError (some (.value s.inp.value)) })

/-! ## Response payloads -/

/-- R88, R87: result i goes to byte i div 8, bit i mod 8, in ceil(q/8) bytes, and the padding bits are 0. -/
def Obligations.PackBitsResult : Prop :=
  encode .packBits = .command 0x00000020#32 ∧ ∀ s : State,
    ∃ bytes : List Byte,
      exec .packBits s = .next { s with out := { Outputs.idle with outcome := some .ok, dout := some bytes } } ∧
        bytes.length = (s.inp.results.length + 7) / 8 ∧
        ∀ i, i < 8 * bytes.length →
          (bytes.getD (i / 8) 0#8).getLsbD (i % 8) =
            (decide (i < s.inp.results.length) &&
              (match s.params.bitCoerce with
                | .nonzero => decide (s.inp.results.getD i 0#16 ≠ 0#16)
                | .lsb => (s.inp.results.getD i 0#16).getLsbD 0))

/-- R87: the two coercions pack the same bytes when every result is 0 or 1. -/
def Obligations.BitCoercionsAgreeOnBits : Prop :=
  ∀ results : List Word, (∀ r ∈ results, r = 0#16 ∨ r = 1#16) → packBits .nonzero results = packBits .lsb results

/-- R89: each result takes two bytes, high byte first. -/
def Obligations.PackWordsResult : Prop :=
  encode .packWords = .command 0x00000021#32 ∧ ∀ s : State,
    ∃ bytes : List Byte,
      exec .packWords s = .next { s with out := { Outputs.idle with outcome := some .ok, dout := some bytes } } ∧
        bytes.length = 2 * s.inp.results.length ∧
        ∀ i, i < s.inp.results.length →
          bytes.getD (2 * i) 0#8 = (s.inp.results.getD i 0#16).extractLsb' 8 8 ∧
            bytes.getD (2 * i + 1) 0#8 = (s.inp.results.getD i 0#16).extractLsb' 0 8

/-- R90: the response PDU is function code, byte count and the bytes PACK_BITS or PACK_WORDS gives; a function code
outside 1 to 4 raises UNSUPPORTED_FC, and a payload over 255 bytes LENGTH_OVERFLOW. -/
def Obligations.PduResponseResult : Prop :=
  (∀ (s : State) (f : FunctionCode), ResponseFits f s.inp.results.length →
    ∃ (t : State) (p : List Byte),
      exec (if f = .readCoils ∨ f = .readDiscreteInputs then .packBits else .packWords) s = .next t ∧
        t.out.dout = some p ∧ p.length = payloadLength f s.inp.results.length ∧
        exec (.pduResponse (byteOfFunction f)) s =
          .next { s with out := { Outputs.idle with
            outcome := some .ok, dout := some ([byteOfFunction f, BitVec.ofNat 8 p.length] ++ p) } }) ∧
    (∀ (s : State) (f : FunctionCode), ¬ ResponseFits f s.inp.results.length →
      exec (.pduResponse (byteOfFunction f)) s =
        .next { s with out := raisedWith .lengthOverflow (some (.length (payloadLength f s.inp.results.length))) }) ∧
    ∀ (s : State) (fc : Byte), fc ∉ [0x01#8, 0x02#8, 0x03#8, 0x04#8] →
      exec (.pduResponse fc) s = .next { s with out := raisedWith .unsupportedFc (some (.fc fc)) }

/-- R95: a response can be built exactly when the function code is 1 to 4 and the results fit, at most 2040 bits or 127
words, and its length is then 2 + ceil(q/8) or 2 + 2q. -/
def Obligations.ResponseLimits : Prop :=
  ∀ (s : State) (fc : Byte),
    ((∃ t, exec (.pduResponse fc) s = .next t ∧ t.out.outcome = some .ok) ↔
      ((fc = 0x01#8 ∨ fc = 0x02#8) ∧ s.inp.results.length ≤ 2040) ∨
        ((fc = 0x03#8 ∨ fc = 0x04#8) ∧ s.inp.results.length ≤ 127)) ∧
      ∀ t pdu, exec (.pduResponse fc) s = .next t → t.out.dout = some pdu →
        ((fc = 0x01#8 ∨ fc = 0x02#8) ∧ pdu.length = 2 + (s.inp.results.length + 7) / 8) ∨
          ((fc = 0x03#8 ∨ fc = 0x04#8) ∧ pdu.length = 2 + 2 * s.inp.results.length)

/-- R91 to R94 with R90 (assumption 6 names the outputs): a request PDU of function code f is answered with the response
PDU of the results passed for it, whatever its start and quantity, and LENGTH_OVERFLOW where they do not fit. -/
def Obligations.RequestRowsResult : Prop :=
  ∀ (s : State) (f : FunctionCode) (start qty : Word),
    (ResponseFits f s.inp.results.length →
      ∃ (u : State) (pdu : List Byte),
        exec (.pduResponse (byteOfFunction f)) s = .next u ∧ u.out.dout = some pdu ∧
          exec (requestInstr f start qty) s =
            .next { s with out := { Outputs.idle with
              outcome := some .ok, fc := some (byteOfFunction f), start := some start, qty := some qty,
              dout := some pdu } }) ∧
      (¬ ResponseFits f s.inp.results.length →
        exec (requestInstr f start qty) s =
          .next { s with out := raisedWith .lengthOverflow (some (.length (payloadLength f s.inp.results.length))) })

/-! ## Modbus/TCP -/

/-- R97, R99, R100: a complete frame with function code 1 to 4 and a PDU of 5 bytes or more decodes, whatever its
protocolId and unitId; bytes of the PDU after the fifth are consumed and ignored, and bytes after the frame are not
read. -/
def Obligations.MbapDecodeAcceptsRequests : Prop :=
  ∀ (s : State) (tid pid : Word) (uid : Byte) (f : FunctionCode) (start qty : Word) (extra tail : List Byte),
    extra.length + 6 < 65536 →
    s.inp.din =
      be16Bytes tid ++ be16Bytes pid ++ be16Bytes (BitVec.ofNat 16 (extra.length + 6)) ++ [uid] ++
        requestPdu f start qty ++ extra ++ tail →
    exec .mbapDecode s =
      .next { s with out := { Outputs.idle with
        outcome := some .ok, tid := some tid, pid := some pid, len := some (BitVec.ofNat 16 (extra.length + 6)),
        uid := some uid, fc := some (byteOfFunction f), start := some start, qty := some qty,
        consumed := some (12 + extra.length) } }

/-- R97: every other outcome of MBAP_DECODE, in the order of its pseudocode; L is the length field, bytes 4 and 5. -/
def Obligations.MbapDecodeOtherOutcomes : Prop :=
  ∀ (s : State) (L : Nat), L = 256 * (s.inp.din.getD 4 0#8).toNat + (s.inp.din.getD 5 0#8).toNat →
    (s.inp.din.length < 7 →
      exec .mbapDecode s =
        .next { s with out := raisedWith (if s.inp.eof then .closedHeader else .needMore) none }) ∧
    (7 ≤ s.inp.din.length → L < 2 →
      exec .mbapDecode s = .next { s with out := raisedWith .malformedLength (some (.length L)) }) ∧
    (7 ≤ s.inp.din.length → 2 ≤ L → s.inp.din.length < 6 + L →
      exec .mbapDecode s = .next { s with out := raisedWith (if s.inp.eof then .closedPdu else .needMore) none }) ∧
    (2 ≤ L → 6 + L ≤ s.inp.din.length → s.inp.din.getD 7 0#8 ∉ [0x01#8, 0x02#8, 0x03#8, 0x04#8] →
      exec .mbapDecode s = .next { s with out := raisedWith .unsupportedFc (some (.fc (s.inp.din.getD 7 0#8))) }) ∧
    (2 ≤ L → 6 + L ≤ s.inp.din.length → s.inp.din.getD 7 0#8 ∈ [0x01#8, 0x02#8, 0x03#8, 0x04#8] → L < 6 →
      exec .mbapDecode s = .next { s with out := raisedWith .malformedPdu (some (.length L)) })

/-- R105: MBAP_DECODE is a function of `din` and `eof`; OK, MALFORMED_LENGTH, UNSUPPORTED_FC and MALFORMED_PDU depend on
the frame's bytes alone (the first 7 for MALFORMED_LENGTH), so appending bytes or changing `eof` changes nothing; and
NEED_MORE becomes CLOSED_HEADER or CLOSED_PDU when no more bytes will come. -/
def Obligations.MbapDecodeDependsOnItsFrame : Prop :=
  (∀ (s₁ s₂ t₁ t₂ : State), s₁.inp.din = s₂.inp.din → s₁.inp.eof = s₂.inp.eof → exec .mbapDecode s₁ = .next t₁ →
    exec .mbapDecode s₂ = .next t₂ → t₁.out = t₂.out) ∧
  (∀ (s t : State) (frame more₁ more₂ : List Byte) (eof : Bool), s.inp.din = frame ++ more₁ →
    exec .mbapDecode s = .next t →
    (t.out.outcome ∈ [some .ok, some .unsupportedFc, some .malformedPdu] ∧
        frame.length = 6 + (256 * (s.inp.din.getD 4 0#8).toNat + (s.inp.din.getD 5 0#8).toNat)) ∨
      (t.out.outcome = some .malformedLength ∧ frame.length = 7) →
    exec .mbapDecode { s with inp := { s.inp with din := frame ++ more₂, eof := eof } } =
      .next { s with inp := { s.inp with din := frame ++ more₂, eof := eof }, out := t.out }) ∧
  ∀ s t : State, exec .mbapDecode s = .next t → t.out.outcome = some .needMore →
    s.inp.eof = false ∧
      EndsWithin [.closedHeader, .closedPdu] (exec .mbapDecode { s with inp := { s.inp with eof := true } })

/-- R101, R102: the response frame is the request's transactionId, protocolId 0, the length of unitId and PDU, the
request's unitId, and the PDU; UNSUPPORTED_FC and LENGTH_OVERFLOW as PDU_RESPONSE, with no bytes output. -/
def Obligations.MbapEncodeResult : Prop :=
  (∀ (s : State) (f : FunctionCode), ResponseFits f s.inp.results.length →
    ∃ (u : State) (pdu : List Byte),
      exec (.pduResponse (byteOfFunction f)) s = .next u ∧ u.out.dout = some pdu ∧
        exec (.mbapEncode (byteOfFunction f)) s =
          .next { s with out := { Outputs.idle with
            outcome := some .ok,
            dout := some ([s.inp.tid.extractLsb' 8 8, s.inp.tid.extractLsb' 0 8, 0x00#8, 0x00#8,
              BitVec.ofNat 8 ((pdu.length + 1) / 256), BitVec.ofNat 8 ((pdu.length + 1) % 256), s.inp.uid] ++ pdu) } }) ∧
    ∀ (s t : State) (fc : Byte), exec (.pduResponse fc) s = .next t → t.out.outcome ≠ some .ok →
      exec (.mbapEncode fc) s = .next t

/-- R104: a response frame of n payload bytes has 9 + n bytes and length field 3 + n, so its size is 6 + length. -/
def Obligations.MbapLengthLaw : Prop :=
  ∀ (s t : State) (f : FunctionCode) (frame : List Byte),
    exec (.mbapEncode (byteOfFunction f)) s = .next t → t.out.dout = some frame →
    frame.length = 9 + payloadLength f s.inp.results.length ∧
      256 * (frame.getD 4 0#8).toNat + (frame.getD 5 0#8).toNat = 3 + payloadLength f s.inp.results.length ∧
      frame.length = 6 + (256 * (frame.getD 4 0#8).toNat + (frame.getD 5 0#8).toNat)

/-! ## Modbus RTU -/

/-- R108: a frame that is not 8 bytes is DROP_LENGTH; an 8-byte frame is checked for its trailer, its unit and its
function code, in that order, and otherwise decodes. -/
def Obligations.RtuDecodeResult : Prop :=
  encode .rtuDecode = .command 0x00000040#32 ∧
  (∀ s : State, s.inp.din.length ≠ 8 →
    exec .rtuDecode s = .next { s with out := raisedWith .dropLength (some (.length s.inp.din.length)) }) ∧
  ∀ (s : State) (b0 b1 b2 b3 b4 b5 b6 b7 : Byte), s.inp.din = [b0, b1, b2, b3, b4, b5, b6, b7] →
    exec .rtuDecode s =
      .next { s with out :=
        if (crc16 [b0, b1, b2, b3, b4, b5]).toNat ≠ b6.toNat + 256 * b7.toNat then raisedWith .dropCrc none
        else if b0 ≠ s.unitId then raisedWith .dropUnit (some (.unitId b0))
        else if b1 ∉ [0x01#8, 0x02#8, 0x03#8, 0x04#8] then raisedWith .dropFc (some (.fc b1))
        else { Outputs.idle with
          outcome := some .ok, uid := some b0, fc := some b1, start := some (wordOfBytes b2 b3),
          qty := some (wordOfBytes b4 b5) } }

/-- R49, R108: a request for this unit with its own trailer decodes, for every function code, start and quantity. -/
def Obligations.RtuRequestDecodes : Prop :=
  ∀ (s : State) (f : FunctionCode) (start qty : Word) (head : List Byte),
    head = [s.unitId] ++ requestPdu f start qty → s.inp.din = head ++ le16Bytes (crc16 head) →
    exec .rtuDecode s =
      .next { s with out := { Outputs.idle with
        outcome := some .ok, uid := some s.unitId, fc := some (byteOfFunction f), start := some start,
        qty := some qty } }

/-- R110, R50, R107: the response frame is `UNIT_ID`, the PDU, and the CRC of both, low byte first, and it passes the
trailer check; UNSUPPORTED_FC and LENGTH_OVERFLOW as PDU_RESPONSE, with no bytes output. -/
def Obligations.RtuEncodeResult : Prop :=
  (∀ (s : State) (f : FunctionCode), ResponseFits f s.inp.results.length →
    ∃ (u : State) (pdu frame : List Byte),
      exec (.pduResponse (byteOfFunction f)) s = .next u ∧ u.out.dout = some pdu ∧
        frame = [s.unitId] ++ pdu ++
          [(crc16 ([s.unitId] ++ pdu)).extractLsb' 0 8, (crc16 ([s.unitId] ++ pdu)).extractLsb' 8 8] ∧
        trailerMatches frame = true ∧
        exec (.rtuEncode (byteOfFunction f)) s =
          .next { s with out := { Outputs.idle with outcome := some .ok, dout := some frame } }) ∧
    ∀ (s t : State) (fc : Byte), exec (.pduResponse fc) s = .next t → t.out.outcome ≠ some .ok →
      exec (.rtuEncode fc) s = .next t

/-- R111: where no window of 8 or more bytes at the buffer's end matches, RTU_FEED keeps the bytes and ends with
NO_FRAME. -/
def Obligations.RtuFeedKeepsAccumulating : Prop :=
  ∀ (s : State) (b : Byte), NoWindowMatches (bufferAfterFeed s b) →
    exec (.rtuFeed b) s = .next { s with rtuBuf := bufferAfterFeed s b, out := raisedWith .noFrame none }

/-- R111, R112: the shortest matching window of 8 or more bytes is accepted: the buffer is emptied, `frame` is the
window, and the outcome and the other outputs are those of RTU_DECODE of it. -/
def Obligations.RtuFeedAcceptsShortestWindow : Prop :=
  ∀ (s : State) (b : Byte) (len : Nat) (w : List Byte), 8 ≤ len → len ≤ (bufferAfterFeed s b).length →
    w = (bufferAfterFeed s b).drop ((bufferAfterFeed s b).length - len) → trailerMatches w = true →
    (∀ k, 8 ≤ k → k < len →
      trailerMatches ((bufferAfterFeed s b).drop ((bufferAfterFeed s b).length - k)) = false) →
    ∃ u, exec .rtuDecode { s with inp := { s.inp with din := w } } = .next u ∧
      exec (.rtuFeed b) s = .next { s with rtuBuf := [], out := { u.out with frame := some w } }

/-- R113: RTU_FEED of a block `s` with a finite capacity beside one `u` without, where `s` holds the last bytes of what `u`
holds, as many as its capacity keeps. Where the unbounded feed accepts no window longer than the capacity, the two end with
the same outputs, and `s` again holds the last bytes of what `u` holds; where it accepts a longer one, the finite block has
tested no such window: it ends with NO_FRAME and keeps the last bytes. -/
def Obligations.CapacityKeepsShortWindows : Prop :=
  ∀ (s u : State) (b : Byte) (cap : Nat), s.params.rtuBufCap = some cap → u.params.rtuBufCap = none →
    s.unitId = u.unitId → s.rtuBuf = u.rtuBuf.drop (u.rtuBuf.length - cap) →
    ∃ v, exec (.rtuFeed b) u = .next v ∧
      ((∀ w, v.out.frame = some w → w.length ≤ cap) →
        exec (.rtuFeed b) s =
          .next { s with rtuBuf := v.rtuBuf.drop (v.rtuBuf.length - cap), out := v.out }) ∧
      ∀ w, v.out.frame = some w → cap < w.length →
        exec (.rtuFeed b) s =
          .next { s with rtuBuf := (u.rtuBuf ++ [b]).drop (u.rtuBuf.length + 1 - cap), out := raisedWith .noFrame none }

/-- R115: resynchronisation: garbage, then 8 bytes with a correct trailer, fed from an empty buffer that holds 8 bytes or
more: if no feed before the last accepts a window, the last feed accepts exactly those 8 bytes. -/
def Obligations.FramerResynchronises : Prop :=
  ∀ (s : State) (garbage frame : List Byte), frame.length = 8 → trailerMatches frame = true → s.rtuBuf = [] →
    (∀ cap, s.params.rtuBufCap = some cap → 8 ≤ cap) →
    (∀ fed b, fed ++ [b] <+: garbage ++ frame.dropLast →
      ∃ t, runInstrs ((fed ++ [b]).map .rtuFeed) s = .next t ∧ t.out.outcome = some .noFrame) →
    ∃ t u, runInstrs ((garbage ++ frame).map .rtuFeed) s = .next t ∧ t.rtuBuf = [] ∧
      exec .rtuDecode { s with inp := { s.inp with din := frame } } = .next u ∧
      t.out = { u.out with frame := some frame }

/-! ## Invariants -/

/-- R6, R18, R19, R20: right after reset the framer's invariant holds, and the state is one the hardware can hold. -/
def Obligations.InvariantsHoldAtReset : Prop := FramerInv State.reset ∧ State.reset.wf = true

/-- R18, R19, R111, R113: every step keeps the framer's invariant: the buffer is within its capacity, and no window of 8
or more bytes at its end carries a matching trailer. -/
def Obligations.FramerInvariantKept : Prop := ∀ s t : State, FramerInv s → step s = .next t → FramerInv t

/-- R6, R18, R20: every step keeps the state one the hardware can hold. -/
def Obligations.WellFormednessKept : Prop := ∀ s t : State, s.wf = true → step s = .next t → t.wf = true

/-! ## Host programs over the block -/

/-- R98, R103: a round of the TCP handler writes bytes only when it answers; it leaves the block's registers as they
were. -/
def Obligations.TcpRoundWritesOnlyAnswers : Prop :=
  ∀ (synth : Byte → Nat → Word) (s : State) (received : List Byte) (eof : Bool) (r : TcpRound),
    r = tcpRound synth s received eof →
    (r.action ≠ .answer → r.written = [] ∧ r.rest = received) ∧
      r.state.crcAcc = s.crcAcc ∧ r.state.rtuBuf = s.rtuBuf ∧ r.state.unitId = s.unitId ∧ r.state.inbox = s.inbox

/-- R103, R97, R99, R101: a request whose results fit, with any bytes of its PDU after the fifth, is answered with one
response frame that carries its transactionId and unitId, one result per address from its start address on, and exactly the
request's bytes are dropped. -/
def Obligations.TcpRequestIsAnswered : Prop :=
  ∀ (synth : Byte → Nat → Word) (s : State) (tid pid : Word) (uid : Byte) (f : FunctionCode) (start qty : Word)
    (extra tail : List Byte) (eof : Bool) (results : List Word) (p : List Byte),
    s.inReset = false → extra.length + 6 < 65536 → ResponseFits f qty.toNat →
    results = (List.range qty.toNat).map (fun i => synth (byteOfFunction f) (start.toNat + i)) →
    p = (if f = .readCoils ∨ f = .readDiscreteInputs then packBits s.params.bitCoerce results else packWords results) →
    ∃ r : TcpRound,
      tcpRound synth s
          (be16Bytes tid ++ be16Bytes pid ++ be16Bytes (BitVec.ofNat 16 (extra.length + 6)) ++ [uid] ++
            requestPdu f start qty ++ extra ++ tail) eof = r ∧
        r.action = .answer ∧ r.rest = tail ∧
        r.written =
          be16Bytes tid ++ [0x00#8, 0x00#8] ++ be16Bytes (BitVec.ofNat 16 (3 + p.length)) ++
            [uid, byteOfFunction f, BitVec.ofNat 8 p.length] ++ p

/-- R109, R117: a round of the serial reader writes bytes only when the byte fed completes an 8-byte frame for this unit
with a matching trailer and a function code 1 to 4. -/
def Obligations.RtuRoundWritesOnlyForThisUnit : Prop :=
  ∀ (synth : Byte → Nat → Word) (s : State) (b : Byte), (rtuRound synth s b).written ≠ [] →
    s.inReset = false ∧
      ∃ w : List Byte, w <:+ s.rtuBuf ++ [b] ∧ w.length = 8 ∧ trailerMatches w = true ∧
        w.getD 0 0#8 = s.unitId ∧ w.getD 1 0#8 ∈ [0x01#8, 0x02#8, 0x03#8, 0x04#8]
end

