-- ==== Sys2Proof/Laws/Crc.lean ====
section
/-!
SUPPORT. Laws/Crc.lean: the CRC of a sequence put together from the CRCs of its parts (spec/41_crc.md R61, R66, R69).
-/
namespace Sys2Proof.Machine

@[simp] theorem crcFrom_nil (a : Word) : crcFrom a [] = a := rfl

@[simp] theorem crcFrom_cons (a : Word) (b : Byte) (rest : List Byte) :
    crcFrom a (b :: rest) = crcFrom (crcStep a b) rest := rfl

theorem crcFrom_append (a : Word) (xs ys : List Byte) : crcFrom a (xs ++ ys) = crcFrom (crcFrom a xs) ys := by
  simp [crcFrom, List.foldl_append]

theorem crc16_append (xs ys : List Byte) : crc16 (xs ++ ys) = crcFrom (crc16 xs) ys := crcFrom_append _ xs ys

theorem crcStep_eq_shifts (a : Word) (b : Byte) :
    crcStep a b = crcShift (crcShift (crcShift (crcShift (crcShift (crcShift (crcShift (crcShift
      (a ^^^ b.setWidth 16)))))))) := rfl

/-- A sequence followed by two bytes matches exactly when the two bytes are its CRC, low byte first. -/
theorem trailerMatches_append (body : List Byte) (lo hi : Byte) :
    trailerMatches (body ++ [lo, hi]) = (crc16 body == wordOfBytes hi lo) := by
  have h1 : ¬ (body ++ [lo, hi]).length < 2 := by simp
  have h2 : (body ++ [lo, hi]).length - 2 = body.length := by simp
  rw [trailerMatches, if_neg h1, h2]
  simp [slice, le16At, byteAt]

/-- Fewer than two bytes hold no trailer (decision D41). -/
theorem trailerMatches_short (bytes : List Byte) (h : bytes.length < 2) : trailerMatches bytes = false := by
  simp [trailerMatches, h]

end Sys2Proof.Machine
end

