-- ==== Sys2Proof/Laws/Decode.lean ====
section
/-!
SUPPORT. Laws/Decode.lean: the small lemmas of byte order, command fields, function codes and byte-order codes.
-/
namespace Sys2Proof

/-! ### Byte order -/

@[simp] theorem highByte_wordOfBytes (hi lo : Byte) : highByte (wordOfBytes hi lo) = hi := by
  apply BitVec.eq_of_getLsbD_eq
  intro i h
  interval_cases i <;> simp [highByte, wordOfBytes]

@[simp] theorem lowByte_wordOfBytes (hi lo : Byte) : lowByte (wordOfBytes hi lo) = lo := by
  apply BitVec.eq_of_getLsbD_eq
  intro i h
  interval_cases i <;> simp [lowByte, wordOfBytes]

@[simp] theorem wordOfBytes_high_low (w : Word) : wordOfBytes (highByte w) (lowByte w) = w := by
  apply BitVec.eq_of_getLsbD_eq
  intro i h
  interval_cases i <;> simp [highByte, lowByte, wordOfBytes]

@[simp] theorem be16Bytes_length (w : Word) : (be16Bytes w).length = 2 := rfl
@[simp] theorem le16Bytes_length (w : Word) : (le16Bytes w).length = 2 := rfl

@[simp] theorem byteAt_cons_zero (b : Byte) (rest : List Byte) : byteAt (b :: rest) 0 = b := rfl

@[simp] theorem byteAt_cons_succ (b : Byte) (rest : List Byte) (i : Nat) :
    byteAt (b :: rest) (i + 1) = byteAt rest i := by simp [byteAt]

/-! ### Fields of a command word -/

@[simp] theorem cmdOp_mkCommand (a16 : Word) (a8 op : Byte) : cmdOp (mkCommand a16 a8 op) = op := by
  apply BitVec.eq_of_getLsbD_eq
  intro i h
  interval_cases i <;> simp [cmdOp, mkCommand]

@[simp] theorem cmdArg8_mkCommand (a16 : Word) (a8 op : Byte) : cmdArg8 (mkCommand a16 a8 op) = a8 := by
  apply BitVec.eq_of_getLsbD_eq
  intro i h
  interval_cases i <;> simp [cmdArg8, mkCommand]

@[simp] theorem cmdArg16_mkCommand (a16 : Word) (a8 op : Byte) : cmdArg16 (mkCommand a16 a8 op) = a16 := by
  apply BitVec.eq_of_getLsbD_eq
  intro i h
  interval_cases i <;> simp [cmdArg16, mkCommand]

/-! ### Function codes and byte orders -/

@[simp] theorem functionOfByte_byteOfFunction (f : FunctionCode) : functionOfByte (byteOfFunction f) = some f := by
  cases f <;> rfl

/-- The byte of a supported function code is that code's number. -/
theorem functionOfByte_eq_some (b : Byte) (f : FunctionCode) : functionOfByte b = some f ↔ b = byteOfFunction f := by
  constructor
  · intro h
    simp only [functionOfByte] at h
    split at h
    · cases h; assumption
    split at h
    · cases h; assumption
    split at h
    · cases h; assumption
    split at h
    · cases h; assumption
    · cases h
  · rintro rfl
    simp

/-- A byte names no function code exactly when it is none of 1 to 4 (R52). -/
theorem functionOfByte_eq_none (b : Byte) :
    functionOfByte b = none ↔ b ≠ 0x01#8 ∧ b ≠ 0x02#8 ∧ b ≠ 0x03#8 ∧ b ≠ 0x04#8 := by
  simp only [functionOfByte]
  split
  · simp [*]
  split
  · simp [*]
  split
  · simp [*]
  split
  · simp [*]
  · simp [*]

@[simp] theorem orderOfCode_codeOfOrder (o : ByteOrder) : orderOfCode (codeOfOrder o) = some o := by
  cases o <;> rfl

end Sys2Proof
end

