-- ==== Sys2Proof/Laws/Float.lean ====
section
/-!
SUPPORT. Laws/Float.lean: the handy forms of the binary64 conversions agree with the exact magnitude (spec/42_codec.md
R73, R81).
-/
namespace Sys2Proof.Machine

theorem fractionOf_lt (v : Binary64) : fractionOf v < 2 ^ 52 := (v.extractLsb' 0 52).isLt

theorem exponentOf_lt (v : Binary64) : exponentOf v < 2 ^ 11 := (v.extractLsb' 52 11).isLt

/-- A significand has at most 53 bits. -/
theorem significandOf_lt (v : Binary64) : significandOf v < 2 ^ 53 := by
  have := fractionOf_lt v
  unfold significandOf
  split <;> omega

/-- `integerPart` is the integer part of the exact magnitude (R8, R81). -/
theorem integerPart_eq_magnitude_div (v : Binary64) : integerPart v = magnitude v / 2 ^ 1074 := by
  unfold integerPart magnitude
  generalize hk : scaleOf v = k
  generalize hm : significandOf v = m
  have hlt : m < 2 ^ 53 := hm ▸ significandOf_lt v
  split
  · next h =>
    obtain ⟨d, rfl⟩ := Nat.exists_eq_add_of_le h
    rw [Nat.add_sub_cancel_left, Nat.pow_add, ← Nat.mul_assoc, Nat.mul_right_comm,
      Nat.mul_div_cancel _ (by positivity)]
  · next h =>
    have hk' : k ≤ 1074 := by omega
    have hsplit : 2 ^ 1074 = 2 ^ (1074 - k) * 2 ^ k := by rw [← Nat.pow_add]; congr 1; omega
    rw [hsplit, Nat.mul_div_mul_right _ _ (by positivity)]
    rcases Nat.le_total (1074 - k) 53 with h53 | h53
    · rw [Nat.min_eq_left h53]
    · rw [Nat.min_eq_right h53, Nat.div_eq_of_lt hlt,
        Nat.div_eq_of_lt (lt_of_lt_of_le hlt (Nat.pow_le_pow_right (by norm_num) h53))]

/-- A NaN pattern is its own draw, so every NaN pattern is admitted (R74). -/
theorem asNaN32_of_isNaN32 (p : Binary32) (h : isNaN32 p = true) : asNaN32 p = p := by simp [asNaN32, h]

end Sys2Proof.Machine
end

