-- ==== Sys2Proof/Laws/State.lean ====
section
/-!
SUPPORT. Laws/State.lean: each field of the state after each update, true by rfl and in the simp set, so that no later
proof unfolds a record update.
-/
namespace Sys2Proof.Machine

/-! ### setCrcAcc -/

@[simp] theorem setCrcAcc_crcAcc (s : State) (v : Word) : (setCrcAcc s v).crcAcc = v := rfl
@[simp] theorem setCrcAcc_rtuBuf (s : State) (v : Word) : (setCrcAcc s v).rtuBuf = s.rtuBuf := rfl
@[simp] theorem setCrcAcc_unitId (s : State) (v : Word) : (setCrcAcc s v).unitId = s.unitId := rfl
@[simp] theorem setCrcAcc_inReset (s : State) (v : Word) : (setCrcAcc s v).inReset = s.inReset := rfl
@[simp] theorem setCrcAcc_params (s : State) (v : Word) : (setCrcAcc s v).params = s.params := rfl
@[simp] theorem setCrcAcc_inp (s : State) (v : Word) : (setCrcAcc s v).inp = s.inp := rfl
@[simp] theorem setCrcAcc_out (s : State) (v : Word) : (setCrcAcc s v).out = s.out := rfl
@[simp] theorem setCrcAcc_inbox (s : State) (v : Word) : (setCrcAcc s v).inbox = s.inbox := rfl
@[simp] theorem setCrcAcc_nanDraws (s : State) (v : Word) : (setCrcAcc s v).nanDraws = s.nanDraws := rfl

/-! ### setRtuBuf -/

@[simp] theorem setRtuBuf_crcAcc (s : State) (v : List Byte) : (setRtuBuf s v).crcAcc = s.crcAcc := rfl
@[simp] theorem setRtuBuf_rtuBuf (s : State) (v : List Byte) : (setRtuBuf s v).rtuBuf = v := rfl
@[simp] theorem setRtuBuf_unitId (s : State) (v : List Byte) : (setRtuBuf s v).unitId = s.unitId := rfl
@[simp] theorem setRtuBuf_inReset (s : State) (v : List Byte) : (setRtuBuf s v).inReset = s.inReset := rfl
@[simp] theorem setRtuBuf_params (s : State) (v : List Byte) : (setRtuBuf s v).params = s.params := rfl
@[simp] theorem setRtuBuf_inp (s : State) (v : List Byte) : (setRtuBuf s v).inp = s.inp := rfl
@[simp] theorem setRtuBuf_out (s : State) (v : List Byte) : (setRtuBuf s v).out = s.out := rfl
@[simp] theorem setRtuBuf_inbox (s : State) (v : List Byte) : (setRtuBuf s v).inbox = s.inbox := rfl
@[simp] theorem setRtuBuf_nanDraws (s : State) (v : List Byte) : (setRtuBuf s v).nanDraws = s.nanDraws := rfl

/-! ### advanceDraws -/

@[simp] theorem advanceDraws_crcAcc (s : State) : (advanceDraws s).crcAcc = s.crcAcc := rfl
@[simp] theorem advanceDraws_rtuBuf (s : State) : (advanceDraws s).rtuBuf = s.rtuBuf := rfl
@[simp] theorem advanceDraws_unitId (s : State) : (advanceDraws s).unitId = s.unitId := rfl
@[simp] theorem advanceDraws_inReset (s : State) : (advanceDraws s).inReset = s.inReset := rfl
@[simp] theorem advanceDraws_params (s : State) : (advanceDraws s).params = s.params := rfl
@[simp] theorem advanceDraws_inp (s : State) : (advanceDraws s).inp = s.inp := rfl
@[simp] theorem advanceDraws_out (s : State) : (advanceDraws s).out = s.out := rfl
@[simp] theorem advanceDraws_inbox (s : State) : (advanceDraws s).inbox = s.inbox := rfl
@[simp] theorem advanceDraws_nanDraws (s : State) : (advanceDraws s).nanDraws = s.nanDraws + 1 := rfl

/-! ### setOut -/

@[simp] theorem setOut_crcAcc (s : State) (o : Outputs) : (setOut s o).crcAcc = s.crcAcc := rfl
@[simp] theorem setOut_rtuBuf (s : State) (o : Outputs) : (setOut s o).rtuBuf = s.rtuBuf := rfl
@[simp] theorem setOut_unitId (s : State) (o : Outputs) : (setOut s o).unitId = s.unitId := rfl
@[simp] theorem setOut_inReset (s : State) (o : Outputs) : (setOut s o).inReset = s.inReset := rfl
@[simp] theorem setOut_params (s : State) (o : Outputs) : (setOut s o).params = s.params := rfl
@[simp] theorem setOut_inp (s : State) (o : Outputs) : (setOut s o).inp = s.inp := rfl
@[simp] theorem setOut_out (s : State) (o : Outputs) : (setOut s o).out = o := rfl
@[simp] theorem setOut_inbox (s : State) (o : Outputs) : (setOut s o).inbox = s.inbox := rfl
@[simp] theorem setOut_nanDraws (s : State) (o : Outputs) : (setOut s o).nanDraws = s.nanDraws := rfl

/-! ### popEvent -/

@[simp] theorem popEvent_crcAcc (s : State) (rest : List HostEvent) : (popEvent s rest).crcAcc = s.crcAcc := rfl
@[simp] theorem popEvent_rtuBuf (s : State) (rest : List HostEvent) : (popEvent s rest).rtuBuf = s.rtuBuf := rfl
@[simp] theorem popEvent_unitId (s : State) (rest : List HostEvent) : (popEvent s rest).unitId = s.unitId := rfl
@[simp] theorem popEvent_inReset (s : State) (rest : List HostEvent) : (popEvent s rest).inReset = s.inReset := rfl
@[simp] theorem popEvent_params (s : State) (rest : List HostEvent) : (popEvent s rest).params = s.params := rfl
@[simp] theorem popEvent_inp (s : State) (rest : List HostEvent) : (popEvent s rest).inp = s.inp := rfl
@[simp] theorem popEvent_out (s : State) (rest : List HostEvent) : (popEvent s rest).out = s.out := rfl
@[simp] theorem popEvent_inbox (s : State) (rest : List HostEvent) : (popEvent s rest).inbox = rest := rfl
@[simp] theorem popEvent_nanDraws (s : State) (rest : List HostEvent) : (popEvent s rest).nanDraws = s.nanDraws := rfl

/-! ### presentPorts -/

@[simp] theorem presentPorts_crcAcc (s : State) (p : Inputs) : (presentPorts s p).crcAcc = s.crcAcc := rfl
@[simp] theorem presentPorts_rtuBuf (s : State) (p : Inputs) : (presentPorts s p).rtuBuf = s.rtuBuf := rfl
@[simp] theorem presentPorts_unitId (s : State) (p : Inputs) : (presentPorts s p).unitId = s.unitId := rfl
@[simp] theorem presentPorts_inReset (s : State) (p : Inputs) : (presentPorts s p).inReset = s.inReset := rfl
@[simp] theorem presentPorts_params (s : State) (p : Inputs) : (presentPorts s p).params = s.params := rfl
@[simp] theorem presentPorts_inp (s : State) (p : Inputs) : (presentPorts s p).inp = p := rfl
@[simp] theorem presentPorts_out (s : State) (p : Inputs) : (presentPorts s p).out = Outputs.idle := rfl
@[simp] theorem presentPorts_inbox (s : State) (p : Inputs) : (presentPorts s p).inbox = s.inbox := rfl
@[simp] theorem presentPorts_nanDraws (s : State) (p : Inputs) : (presentPorts s p).nanDraws = s.nanDraws := rfl

/-! ### clearPorts -/

@[simp] theorem clearPorts_crcAcc (s : State) : (clearPorts s).crcAcc = s.crcAcc := rfl
@[simp] theorem clearPorts_rtuBuf (s : State) : (clearPorts s).rtuBuf = s.rtuBuf := rfl
@[simp] theorem clearPorts_unitId (s : State) : (clearPorts s).unitId = s.unitId := rfl
@[simp] theorem clearPorts_inReset (s : State) : (clearPorts s).inReset = s.inReset := rfl
@[simp] theorem clearPorts_params (s : State) : (clearPorts s).params = s.params := rfl
@[simp] theorem clearPorts_inp (s : State) : (clearPorts s).inp = Inputs.idle := rfl
@[simp] theorem clearPorts_out (s : State) : (clearPorts s).out = Outputs.idle := rfl
@[simp] theorem clearPorts_inbox (s : State) : (clearPorts s).inbox = s.inbox := rfl
@[simp] theorem clearPorts_nanDraws (s : State) : (clearPorts s).nanDraws = s.nanDraws := rfl

/-! ### resetRegisters -/

@[simp] theorem resetRegisters_crcAcc (s : State) : (resetRegisters s).crcAcc = 0xFFFF#16 := rfl
@[simp] theorem resetRegisters_rtuBuf (s : State) : (resetRegisters s).rtuBuf = [] := rfl
@[simp] theorem resetRegisters_unitId (s : State) : (resetRegisters s).unitId = s.unitId := rfl
@[simp] theorem resetRegisters_inReset (s : State) : (resetRegisters s).inReset = s.inReset := rfl
@[simp] theorem resetRegisters_params (s : State) : (resetRegisters s).params = s.params := rfl
@[simp] theorem resetRegisters_inp (s : State) : (resetRegisters s).inp = s.inp := rfl
@[simp] theorem resetRegisters_out (s : State) : (resetRegisters s).out = s.out := rfl
@[simp] theorem resetRegisters_inbox (s : State) : (resetRegisters s).inbox = s.inbox := rfl
@[simp] theorem resetRegisters_nanDraws (s : State) : (resetRegisters s).nanDraws = s.nanDraws := rfl

/-! ### assertReset -/

@[simp] theorem assertReset_crcAcc (s : State) : (assertReset s).crcAcc = 0xFFFF#16 := rfl
@[simp] theorem assertReset_rtuBuf (s : State) : (assertReset s).rtuBuf = [] := rfl
@[simp] theorem assertReset_unitId (s : State) : (assertReset s).unitId = s.unitId := rfl
@[simp] theorem assertReset_inReset (s : State) : (assertReset s).inReset = true := rfl
@[simp] theorem assertReset_params (s : State) : (assertReset s).params = s.params := rfl
@[simp] theorem assertReset_inp (s : State) : (assertReset s).inp = Inputs.idle := rfl
@[simp] theorem assertReset_out (s : State) : (assertReset s).out = Outputs.idle := rfl
@[simp] theorem assertReset_inbox (s : State) : (assertReset s).inbox = s.inbox := rfl
@[simp] theorem assertReset_nanDraws (s : State) : (assertReset s).nanDraws = s.nanDraws := rfl

/-! ### releaseReset -/

@[simp] theorem releaseReset_crcAcc (s : State) : (releaseReset s).crcAcc = 0xFFFF#16 := rfl
@[simp] theorem releaseReset_rtuBuf (s : State) : (releaseReset s).rtuBuf = [] := rfl
@[simp] theorem releaseReset_unitId (s : State) : (releaseReset s).unitId = s.unitId := rfl
@[simp] theorem releaseReset_inReset (s : State) : (releaseReset s).inReset = false := rfl
@[simp] theorem releaseReset_params (s : State) : (releaseReset s).params = s.params := rfl
@[simp] theorem releaseReset_inp (s : State) : (releaseReset s).inp = Inputs.idle := rfl
@[simp] theorem releaseReset_out (s : State) : (releaseReset s).out = Outputs.idle := rfl
@[simp] theorem releaseReset_inbox (s : State) : (releaseReset s).inbox = s.inbox := rfl
@[simp] theorem releaseReset_nanDraws (s : State) : (releaseReset s).nanDraws = s.nanDraws := rfl

/-! ### configureUnit -/

/-- Outside reset a configuration changes no register (R127). -/
theorem configureUnit_outside (s : State) (u : Byte) (h : s.inReset = false) : configureUnit s u = clearPorts s := by
  simp [configureUnit, h]

/-- In reset a configuration writes `UNIT_ID` and no other register (R138). -/
theorem configureUnit_inside (s : State) (u : Byte) (h : s.inReset = true) :
    configureUnit s u = { clearPorts s with unitId := u } := by
  simp [configureUnit, h]

end Sys2Proof.Machine
end

