-- ==== Sys2Proof/Laws/Ops.lean ====
section
/-!
SUPPORT. Laws/Ops.lean: what the operations that end a command can do, said once.
-/
namespace Sys2Proof.Machine

/-- A command that ends with outputs always answers a next state, and it differs from the old one on the output ports
only. -/
theorem emit_eq_next (s t : State) (o : Outputs) : emit s o = .next t ↔ t = setOut s o := by
  simp only [emit, Host.Outcome.next.injEq]
  exact eq_comm

theorem emit_ne_fault (s : State) (o : Outputs) (r : Fault) : emit s o ≠ .fault r := nomatch r

theorem emit_ne_refused (s : State) (o : Outputs) (r : Refusal) : emit s o ≠ .refused r := by simp [emit]

/-- `raise` writes the outcome and the info of what it raises, and nothing else. -/
theorem raise_eq_next (s t : State) (r : Raised) : raise s r = .next t ↔ t = setOut s (raisedOutputs r) :=
  emit_eq_next s t _

/-- A rejection by the decoder changes the output ports only. -/
theorem rejected_eq_next (s t : State) (r : Reject) :
    rejected r s = .next t ↔ t = setOut s (raisedOutputs (raisedOfReject r)) := emit_eq_next s t _

@[simp] theorem setOut_setOut (s : State) (o p : Outputs) : setOut (setOut s o) p = setOut s p := rfl

@[simp] theorem raisedOutputs_outcome (r : Raised) : (raisedOutputs r).outcome = some r.code := rfl
@[simp] theorem raisedOutputs_info (r : Raised) : (raisedOutputs r).info = r.info := rfl
@[simp] theorem raisedOutputs_dout (r : Raised) : (raisedOutputs r).dout = none := rfl
@[simp] theorem raisedOutputs_words (r : Raised) : (raisedOutputs r).words = none := rfl
@[simp] theorem raisedOutputs_frame (r : Raised) : (raisedOutputs r).frame = none := rfl
@[simp] theorem okOutputs_outcome : okOutputs.outcome = some .ok := rfl
@[simp] theorem okOutputs_info : okOutputs.info = none := rfl

@[simp] theorem doutOutputs_ok (bytes : List Byte) :
    doutOutputs (.ok bytes) = { okOutputs with dout := some bytes } := rfl

@[simp] theorem doutOutputs_error (r : Raised) : doutOutputs (.error r) = raisedOutputs r := rfl

end Sys2Proof.Machine
end

