-- ==== Sys2Proof/Laws/Pdu.lean ====
section
/-!
SUPPORT. Laws/Pdu.lean: lengths of payloads, and everything a response PDU can be (spec/43_pdu.md R86 to R90).
-/
namespace Sys2Proof.Machine

@[simp] theorem packBits_length (mode : Config.BitCoerce) (rs : List Word) :
    (packBits mode rs).length = (rs.length + 7) / 8 := by simp [packBits]

@[simp] theorem packWords_nil : packWords [] = [] := rfl

@[simp] theorem packWords_cons (r : Word) (rs : List Word) : packWords (r :: rs) = be16Bytes r ++ packWords rs := rfl

@[simp] theorem packWords_length (rs : List Word) : (packWords rs).length = 2 * rs.length := by
  induction rs with
  | nil => rfl
  | cons r rs ih => simp [ih]; omega

/-- The payload length of R86. -/
theorem payload_length (mode : Config.BitCoerce) (f : FunctionCode) (rs : List Word) :
    (payload mode f rs).length = if isBitRead f then (rs.length + 7) / 8 else 2 * rs.length := by
  unfold payload
  split <;> simp

/-- A function code other than 1 to 4 raises UNSUPPORTED_FC. -/
theorem responsePdu_unsupported (mode : Config.BitCoerce) (fc : Byte) (rs : List Word) (h : functionOfByte fc = none) :
    responsePdu mode fc rs = .error { code := .unsupportedFc, info := some (.fc fc) } := by
  simp [responsePdu, h]

/-- A payload over 255 bytes raises LENGTH_OVERFLOW. -/
theorem responsePdu_overflow (mode : Config.BitCoerce) (f : FunctionCode) (rs : List Word)
    (h : 255 < (payload mode f rs).length) :
    responsePdu mode (byteOfFunction f) rs =
      .error { code := .lengthOverflow, info := some (.length (payload mode f rs).length) } := by
  simp [responsePdu, h]

/-- Otherwise the PDU is function code, byte count and payload. -/
theorem responsePdu_fits (mode : Config.BitCoerce) (f : FunctionCode) (rs : List Word)
    (h : (payload mode f rs).length ≤ 255) :
    responsePdu mode (byteOfFunction f) rs =
      .ok ([byteOfFunction f, BitVec.ofNat 8 (payload mode f rs).length] ++ payload mode f rs) := by
  simp [responsePdu, Nat.not_lt.mpr h]

end Sys2Proof.Machine
end

