-- ==== Sys2Proof/Laws/PerInstr.lean ====
section
/-!
SUPPORT. Laws/PerInstr.lean: the family EncodingMatches: the bits of every instruction agree with the match and mask of
its row in spec/opcode_table.json.
-/
namespace Sys2Proof.Laws.EncodingMatches
open Sys2Proof

/-- `match` and `mask` of an instruction's row in spec/opcode_table.json; a function-code row has one byte. -/
def row (i : Instr) : CommandWord × CommandWord :=
  match i with
  | .crcInit => (0x00000001#32, 0xFFFFFFFF#32)
  | .crcUpdate _ => (0x00000002#32, 0xFFFF00FF#32)
  | .crcRead => (0x00000003#32, 0xFFFFFFFF#32)
  | .crc16 => (0x00000004#32, 0xFFFFFFFF#32)
  | .crcCheck => (0x00000005#32, 0xFFFFFFFF#32)
  | .encodeBool _ => (0x00000010#32, 0x0000FFFF#32)
  | .encodeF32Order1234 => (0x04D20110#32, 0xFFFFFFFF#32)
  | .encodeF32Order2143 => (0x085F0110#32, 0xFFFFFFFF#32)
  | .encodeF32Order3412 => (0x0D540110#32, 0xFFFFFFFF#32)
  | .encodeF32Order4321 => (0x10E10110#32, 0xFFFFFFFF#32)
  | .encodeI16S _ => (0x00000210#32, 0x0000FFFF#32)
  | .encodeI16U _ => (0x00000310#32, 0x0000FFFF#32)
  | .packBits => (0x00000020#32, 0xFFFFFFFF#32)
  | .packWords => (0x00000021#32, 0xFFFFFFFF#32)
  | .pduResponse _ => (0x00000022#32, 0xFFFF00FF#32)
  | .mbapDecode => (0x00000030#32, 0xFFFFFFFF#32)
  | .mbapEncode _ => (0x00000031#32, 0xFFFF00FF#32)
  | .rtuDecode => (0x00000040#32, 0xFFFFFFFF#32)
  | .rtuEncode _ => (0x00000041#32, 0xFFFF00FF#32)
  | .rtuFeed _ => (0x00000042#32, 0xFFFF00FF#32)
  | .readCoils _ _ => (0x01#32, 0xFF#32)
  | .readDiscreteInputs _ _ => (0x02#32, 0xFF#32)
  | .readHoldingRegisters _ _ => (0x03#32, 0xFF#32)
  | .readInputRegisters _ _ => (0x04#32, 0xFF#32)

/-- The bits a row's match and mask speak of: the command word, or PDU byte 0. -/
def tableBits (c : Code) : CommandWord :=
  match c with
  | .command w => w
  | .pdu bytes => (byteAt bytes 0).setWidth 32

/-- An instruction's bits, under its row's mask, are its row's match. -/
abbrev Statement (i : Instr) : Prop := tableBits (encode i) &&& (row i).2 = (row i).1

/-- A command word under the mask of a row whose arg8 is free. -/
theorem mask_arg8 (b op : Byte) : mkCommand 0#16 b op &&& 0xFFFF00FF#32 = op.setWidth 32 := by
  apply BitVec.eq_of_getLsbD_eq
  intro i h
  interval_cases i <;> simp [mkCommand]

/-- A command word under the mask of a row whose arg16 is ignored. -/
theorem mask_arg16 (a : Word) (a8 op : Byte) :
    mkCommand a a8 op &&& 0x0000FFFF#32 = (wordOfBytes a8 op).setWidth 32 := by
  apply BitVec.eq_of_getLsbD_eq
  intro i h
  interval_cases i <;> simp [mkCommand, wordOfBytes]

theorem crcInit : Statement .crcInit := by decide
theorem crcUpdate (b : Byte) : Statement (.crcUpdate b) := mask_arg8 b _
theorem crcRead : Statement .crcRead := by decide
theorem crc16 : Statement .crc16 := by decide
theorem crcCheck : Statement .crcCheck := by decide
theorem encodeBool (a : Word) : Statement (.encodeBool a) := mask_arg16 a _ _
theorem encodeF32Order1234 : Statement .encodeF32Order1234 := by decide
theorem encodeF32Order2143 : Statement .encodeF32Order2143 := by decide
theorem encodeF32Order3412 : Statement .encodeF32Order3412 := by decide
theorem encodeF32Order4321 : Statement .encodeF32Order4321 := by decide
theorem encodeI16S (a : Word) : Statement (.encodeI16S a) := mask_arg16 a _ _
theorem encodeI16U (a : Word) : Statement (.encodeI16U a) := mask_arg16 a _ _
theorem packBits : Statement .packBits := by decide
theorem packWords : Statement .packWords := by decide
theorem pduResponse (fc : Byte) : Statement (.pduResponse fc) := mask_arg8 fc _
theorem mbapDecode : Statement .mbapDecode := by decide
theorem mbapEncode (fc : Byte) : Statement (.mbapEncode fc) := mask_arg8 fc _
theorem rtuDecode : Statement .rtuDecode := by decide
theorem rtuEncode (fc : Byte) : Statement (.rtuEncode fc) := mask_arg8 fc _
theorem rtuFeed (b : Byte) : Statement (.rtuFeed b) := mask_arg8 b _
theorem readCoils (start qty : Word) : Statement (.readCoils start qty) := by
  simp [Statement, tableBits, encode, requestPdu, row, byteOfFunction]
theorem readDiscreteInputs (start qty : Word) : Statement (.readDiscreteInputs start qty) := by
  simp [Statement, tableBits, encode, requestPdu, row, byteOfFunction]
theorem readHoldingRegisters (start qty : Word) : Statement (.readHoldingRegisters start qty) := by
  simp [Statement, tableBits, encode, requestPdu, row, byteOfFunction]
theorem readInputRegisters (start qty : Word) : Statement (.readInputRegisters start qty) := by
  simp [Statement, tableBits, encode, requestPdu, row, byteOfFunction]

end Sys2Proof.Laws.EncodingMatches
end

