-- ==== Sys2Proof/Laws/Rtu.lean ====
section
/-!
SUPPORT. Laws/Rtu.lean: everything the framer's window search can find (spec/45_rtu.md R111), and what RTU_FEED then
answers.
-/
namespace Sys2Proof.Machine

@[simp] theorem windowOf_length (buf : List Byte) (len : Nat) : (windowOf buf len).length = min len buf.length := by
  simp [windowOf]
  omega

/-- The lengths the framer tries, in order: 8 up to the buffer's length. -/
theorem acceptedWindow_eq_find (buf : List Byte) :
    acceptedWindow buf = ((List.range' 8 (buf.length - 7)).map (windowOf buf)).find? trailerMatches := rfl

/-- No window is accepted exactly when no window of 8 or more bytes at the buffer's end matches. -/
theorem acceptedWindow_eq_none (buf : List Byte) :
    acceptedWindow buf = none ↔
      ∀ len, 8 ≤ len → len ≤ buf.length → trailerMatches (windowOf buf len) = false := by
  rw [acceptedWindow_eq_find, List.find?_eq_none]
  simp only [List.mem_map, List.mem_range'_1, forall_exists_index, and_imp]
  constructor
  · intro h len h8 hn
    have := h (windowOf buf len) len h8 (by omega) rfl
    simpa using this
  · rintro h _ len h8 hn rfl
    simp [h len h8 (by omega)]

/-- An accepted window matches. -/
theorem acceptedWindow_matches (buf w : List Byte) (h : acceptedWindow buf = some w) : trailerMatches w = true := by
  rw [acceptedWindow_eq_find] at h
  exact List.find?_some h

/-- A matching window is accepted when no shorter one matches. -/
theorem acceptedWindow_first (buf : List Byte) (len : Nat) (h8 : 8 ≤ len) (hn : len ≤ buf.length)
    (hm : trailerMatches (windowOf buf len) = true)
    (hfirst : ∀ k, 8 ≤ k → k < len → trailerMatches (windowOf buf k) = false) :
    acceptedWindow buf = some (windowOf buf len) := by
  rw [acceptedWindow_eq_find]
  have hsplit : List.range' 8 (buf.length - 7) = List.range' 8 (len - 8) ++ List.range' len (buf.length + 1 - len) := by
    have := List.range'_append (s := 8) (m := len - 8) (n := buf.length + 1 - len) (step := 1)
    rw [show 8 + 1 * (len - 8) = len by omega, show len - 8 + (buf.length + 1 - len) = buf.length - 7 by omega] at this
    exact this.symm
  have hcons : List.range' len (buf.length + 1 - len) = len :: List.range' (len + 1) (buf.length - len) := by
    rw [show buf.length + 1 - len = (buf.length - len) + 1 by omega, List.range'_succ]
  have hnone : ((List.range' 8 (len - 8)).map (windowOf buf)).find? trailerMatches = none := by
    rw [List.find?_eq_none]
    simp only [List.mem_map, List.mem_range'_1, forall_exists_index, and_imp]
    rintro _ k hk hk' rfl
    simp [hfirst k hk (by omega)]
  rw [hsplit, List.map_append, List.find?_append, hnone, hcons]
  simp [hm]

/-- The windows of at most `cap` bytes are the same in the last `cap` bytes of a buffer as in the whole of it (R113). -/
theorem windowOf_windowOf (buf : List Byte) (cap len : Nat) (h : len ≤ cap) :
    windowOf (windowOf buf cap) len = windowOf buf len := by
  simp only [windowOf, List.drop_drop, List.length_drop]
  congr 1
  omega

/-- Everything an accepted window can be (R111): the shortest matching one of 8 or more bytes. -/
theorem acceptedWindow_eq_some (buf w : List Byte) :
    acceptedWindow buf = some w ↔
      ∃ len, 8 ≤ len ∧ len ≤ buf.length ∧ w = windowOf buf len ∧ trailerMatches w = true ∧
        ∀ k, 8 ≤ k → k < len → trailerMatches (windowOf buf k) = false := by
  constructor
  · intro h
    have hex : ∃ len, 8 ≤ len ∧ len ≤ buf.length ∧ trailerMatches (windowOf buf len) = true := by
      by_contra hno
      have : acceptedWindow buf = none := (acceptedWindow_eq_none buf).2 fun len h8 hn => by
        by_contra hm
        exact hno ⟨len, h8, hn, by simpa using hm⟩
      simp [this] at h
    classical
    obtain ⟨h8, hn, hm⟩ := Nat.find_spec hex
    have hfirst : ∀ k, 8 ≤ k → k < Nat.find hex → trailerMatches (windowOf buf k) = false := fun k hk hlt => by
      by_contra hm'
      exact Nat.find_min hex hlt ⟨hk, by omega, by simpa using hm'⟩
    have hw := acceptedWindow_first buf _ h8 hn hm hfirst
    obtain rfl : w = windowOf buf (Nat.find hex) := by rw [hw] at h; exact (Option.some.inj h).symm
    exact ⟨_, h8, hn, rfl, hm, hfirst⟩
  · rintro ⟨len, h8, hn, rfl, hm, hfirst⟩
    exact acceptedWindow_first buf len h8 hn hm hfirst

/-- The last `cap` bytes of a buffer accept the window the whole buffer accepts, if it is no longer than `cap`, and none
otherwise (R113). -/
theorem acceptedWindow_windowOf (buf : List Byte) (cap : Nat) :
    acceptedWindow (windowOf buf cap) = (acceptedWindow buf).filter fun w => w.length ≤ cap := by
  cases hb : acceptedWindow buf with
  | none =>
    rw [acceptedWindow_eq_none] at hb
    rw [Option.filter_none, acceptedWindow_eq_none]
    intro len h8 hn
    rw [windowOf_length] at hn
    rw [windowOf_windowOf _ _ _ (by omega)]
    exact hb len h8 (by omega)
  | some w =>
    obtain ⟨len, h8, hn, rfl, hm, hfirst⟩ := (acceptedWindow_eq_some buf w).1 hb
    by_cases hc : len ≤ cap
    · rw [Option.filter_some_pos (by simp [hc]), acceptedWindow_eq_some]
      refine ⟨len, h8, by simp [hc, hn], (windowOf_windowOf _ _ _ hc).symm, hm, fun k hk hlt => ?_⟩
      rw [windowOf_windowOf _ _ _ (by omega)]
      exact hfirst k hk hlt
    · rw [Option.filter_some_neg (by simp; omega), acceptedWindow_eq_none]
      intro k hk hn'
      rw [windowOf_length] at hn'
      rw [windowOf_windowOf _ _ _ (by omega)]
      exact hfirst k hk (by omega)
/-- With a finite capacity, the buffer after an append holds the last bytes of what the unbounded buffer holds, if it did
before (R113). -/
theorem appendByte_windowOf (buf : List Byte) (cap : Nat) (b : Byte) :
    appendByte (some cap) (windowOf buf cap) b = windowOf (buf ++ [b]) cap := by
  have hkept : windowOf buf cap ++ [b] = (buf ++ [b]).drop (buf.length - cap) :=
    (List.drop_append_of_le_length (by omega)).symm
  simp only [appendByte, hkept]
  simp only [windowOf, List.length_append, List.length_drop, List.length_singleton, List.drop_drop]
  split <;> (congr 1; omega)

/-- RTU_FEED with no accepted window keeps the bytes. -/
theorem scanBuffer_none (s : State) (buf : List Byte) (h : acceptedWindow buf = none) :
    scanBuffer s buf = .next (setOut (setRtuBuf s buf) (raisedOutputs { code := .noFrame, info := none })) := by
  simp [scanBuffer, h, raise, emit]

/-- RTU_FEED with an accepted window empties the buffer and ends as the decoding of the window. -/
theorem scanBuffer_some (s : State) (buf w : List Byte) (h : acceptedWindow buf = some w) :
    scanBuffer s buf = .next (setOut (setRtuBuf s []) { rtuOutputs s.unitId w with frame := some w }) := by
  simp [scanBuffer, h, emit]

end Sys2Proof.Machine
end

