-- ==== Sys2Proof/Tests/Slice0.lean ====
section
/-!
SUPPORT. Tests/Slice0.lean: tests of the model on the spec's worked examples and vectors (spec/95_test_vectors.md; the
table or row is named at each test), the checks of WellFormed.lean, and a witness for the hypotheses of each statement.
-/
namespace Sys2Proof.Tests
open Sys2Proof Sys2Proof.Machine

/-- The state after reset with data on its input ports. -/
def onPorts (p : Inputs) : State := { State.reset with inp := p }

/-- The state an answer leaves; the model always answers a next state. -/
def after (a : Answer) : State :=
  match a with
  | .next t => t
  | .fault _ => State.reset
  | .refused _ => State.reset

def onDin (bytes : List Byte) : State := onPorts { Inputs.idle with din := bytes }
def onValue (v : Binary64) : State := onPorts { Inputs.idle with value := v }
def onResults (rs : List Word) : State := onPorts { Inputs.idle with results := rs }
def withBuf (bytes : List Byte) : State := { State.reset with rtuBuf := bytes }

/-! ## WellFormed: a term each check refuses -/

theorem test_wf_params_refuses_small_cap : ({ rtuBufCap := some 7, bitCoerce := .nonzero } : Config.Params).wf = false := by
  decide
theorem test_wf_params_accepts_cap_8 : ({ rtuBufCap := some 8, bitCoerce := .lsb } : Config.Params).wf = true := by decide
theorem inputs_wf_refuses_long (rs : List Word) (h : 65535 < rs.length) :
    ({ Inputs.idle with results := rs } : Inputs).wf = false := by
  simp [Inputs.wf, Nat.not_le.mpr h]
theorem test_wf_inputs_refuses_65536_results :
    ({ Inputs.idle with results := List.replicate 65536 0#16 } : Inputs).wf = false :=
  inputs_wf_refuses_long _ (by rw [List.length_replicate]; norm_num)
theorem test_wf_event_refuses_bad_ports :
    (HostEvent.present (.command 1#32) { Inputs.idle with results := List.replicate 65536 0#16 }).wf = false :=
  test_wf_inputs_refuses_65536_results
theorem test_wf_state_refuses_overfull_buffer :
    ({ State.reset with params := { rtuBufCap := some 8, bitCoerce := .nonzero },
                        rtuBuf := [1#8, 2#8, 3#8, 4#8, 5#8, 6#8, 7#8, 8#8, 9#8] } : State).wf = false := by decide
theorem test_wf_code_refuses_four_byte_pdu : (Code.pdu [1#8, 0#8, 0#8, 0#8]).wf = false := by decide

/-! ## Decoding: words written out from R40, R43, R44, R45 -/

theorem test_decode_crcInit : decode (.command 0x00000001#32) = .instr .crcInit := by decide
theorem test_decode_crcUpdate : decode (.command 0x0000AB02#32) = .instr (.crcUpdate 0xAB#8) := by decide
theorem test_decode_crcRead : decode (.command 0x00000003#32) = .instr .crcRead := by decide
theorem test_decode_crc16 : decode (.command 0x00000004#32) = .instr .crc16 := by decide
theorem test_decode_crcCheck : decode (.command 0x00000005#32) = .instr .crcCheck := by decide
theorem test_decode_encodeBool : decode (.command 0xFFFF0010#32) = .instr (.encodeBool 0xFFFF#16) := by decide
theorem test_decode_encodeF32Order1234 : decode (.command 0x04D20110#32) = .instr .encodeF32Order1234 := by decide
theorem test_decode_encodeF32Order2143 : decode (.command 0x085F0110#32) = .instr .encodeF32Order2143 := by decide
theorem test_decode_encodeF32Order3412 : decode (.command 0x0D540110#32) = .instr .encodeF32Order3412 := by decide
theorem test_decode_encodeF32Order4321 : decode (.command 0x10E10110#32) = .instr .encodeF32Order4321 := by decide
theorem test_decode_encodeI16S : decode (.command 0x00000210#32) = .instr (.encodeI16S 0#16) := by decide
theorem test_decode_encodeI16U : decode (.command 0xFFFF0310#32) = .instr (.encodeI16U 0xFFFF#16) := by decide
theorem test_decode_packBits : decode (.command 0x00000020#32) = .instr .packBits := by decide
theorem test_decode_packWords : decode (.command 0x00000021#32) = .instr .packWords := by decide
theorem test_decode_pduResponse : decode (.command 0x00000322#32) = .instr (.pduResponse 3#8) := by decide
theorem test_decode_mbapDecode : decode (.command 0x00000030#32) = .instr .mbapDecode := by decide
theorem test_decode_mbapEncode : decode (.command 0x00000431#32) = .instr (.mbapEncode 4#8) := by decide
theorem test_decode_rtuDecode : decode (.command 0x00000040#32) = .instr .rtuDecode := by decide
theorem test_decode_rtuEncode : decode (.command 0x00000541#32) = .instr (.rtuEncode 5#8) := by decide
theorem test_decode_rtuFeed : decode (.command 0x00001142#32) = .instr (.rtuFeed 0x11#8) := by decide
theorem test_decode_readCoils : decode (.pdu [1#8, 0x00#8, 0x13#8, 0x00#8, 0x25#8]) = .instr (.readCoils 0x0013#16 37#16) := by
  decide
theorem test_decode_readDiscreteInputs :
    decode (.pdu [2#8, 0xFF#8, 0xFE#8, 0x01#8, 0x00#8]) = .instr (.readDiscreteInputs 0xFFFE#16 0x0100#16) := by decide
theorem test_decode_readHoldingRegisters :
    decode (.pdu [3#8, 0x00#8, 0x6B#8, 0x00#8, 0x03#8]) = .instr (.readHoldingRegisters 0x006B#16 3#16) := by decide
theorem test_decode_readInputRegisters_extra_ignored :
    decode (.pdu [4#8, 0x00#8, 0x10#8, 0x00#8, 0x02#8, 0xEE#8]) = .instr (.readInputRegisters 0x0010#16 2#16) := by decide

/-- Section 7 rows: illegal op, reserved fields, data type and byte order; then R52 and R97 on bare request PDUs. -/
theorem test_decode_rejects_by_name :
    decode (.command 0x00000000#32) = .reject (.badCommand 0x00000000#32) ∧
      decode (.command 0x00000101#32) = .reject (.badCommand 0x00000101#32) ∧
      decode (.command 0x00010042#32) = .reject (.badCommand 0x00010042#32) ∧
      decode (.command 0x00000710#32) = .reject (.configType 7#8) ∧
      decode (.command 0x04D30110#32) = .reject (.configOrder 0x04D3#16) ∧
      decode (.pdu []) = .reject (.malformedLength 1) ∧
      decode (.pdu [0x83#8, 0#8, 0#8, 0#8, 1#8]) = .reject (.unsupportedFc 0x83#8) ∧
      decode (.pdu [3#8, 0#8, 0#8, 0#8]) = .reject (.malformedPdu 5) := by decide

/-- The table's bits of a row, with the bits it does not give being 0, decode to the row's instruction. -/
theorem test_decodeTableWord :
    decodeTableWord 8 0x02 = some (.readDiscreteInputs 0#16 0#16) ∧ decodeTableWord 16 0x0010 = some (.encodeBool 0#16) ∧
      decodeTableWord 32 0x10E10110 = some .encodeF32Order4321 ∧ decodeTableWord 8 0x05 = none := by decide

/-! ## CRC (T2.1 to T2.3, R62 to R66) -/

theorem test_crcInit : (after (exec .crcInit { State.reset with crcAcc := 0x1234#16 })).crcAcc = 0xFFFF#16 := by decide
theorem test_crcUpdate_first : (after (exec (.crcUpdate 0x01#8) State.reset)).crcAcc = 0x807E#16 := by decide
theorem test_crcUpdate_last :
    (after (exec (.crcUpdate 0x0A#8) { State.reset with crcAcc := 0x8419#16 })).crcAcc = 0xCDC5#16 := by decide
theorem test_crcRead : (after (exec .crcRead { State.reset with crcAcc := 0x807E#16 })).out.crc = some 0x807E#16 := by decide
theorem test_crc16_check_value :
    (after (exec .crc16 (onDin [0x31#8, 0x32#8, 0x33#8, 0x34#8, 0x35#8, 0x36#8, 0x37#8, 0x38#8, 0x39#8]))).out.crc =
      some 0x4B37#16 := by decide +kernel
theorem test_crc16_empty : (after (exec .crc16 (onDin []))).out.crc = some 0xFFFF#16 := by decide
theorem test_crcCheck_match :
    (after (exec .crcCheck (onDin [1#8, 3#8, 0#8, 0#8, 0#8, 0x0A#8, 0xC5#8, 0xCD#8]))).out.matched = some true := by decide +kernel
theorem test_crcCheck_swapped :
    (after (exec .crcCheck (onDin [1#8, 3#8, 0#8, 0#8, 0#8, 0x0A#8, 0xCD#8, 0xC5#8]))).out.matched = some false := by decide +kernel

/-! ## Value codec (T3.1 to T3.4) -/

/-- T3.4: NaN is truthy. -/
theorem test_encodeBool_nan :
    (after (exec (.encodeBool 0#16) (onValue 0x7FF8000000000000#64))).out.words = some [1#16] := by decide
/-- T3.4: -0.0 is not. -/
theorem test_encodeBool_negative_zero :
    (after (exec (.encodeBool 0#16) (onValue 0x8000000000000000#64))).out.words = some [0#16] := by decide
/-- 123.456, order 1234. -/
theorem test_encodeF32Order1234 :
    (after (exec .encodeF32Order1234 (onValue 0x405EDD2F1A9FBE77#64))).out.words = some [0x42F6#16, 0xE979#16] := by decide
/-- T3.2: the overflow threshold itself. -/
theorem test_encodeF32Order1234_overflow :
    (after (exec .encodeF32Order1234 (onValue 0x47EFFFFFF0000000#64))).out.outcome = some .valueError := by decide
theorem test_encodeF32Order2143 :
    (after (exec .encodeF32Order2143 (onValue 0x405EDD2F1A9FBE77#64))).out.words = some [0xF642#16, 0x79E9#16] := by decide
/-- 1e-45 rounds to the smallest subnormal. -/
theorem test_encodeF32Order2143_subnormal :
    (after (exec .encodeF32Order2143 (onValue 0x3696D601AD376AB9#64))).out.words = some [0x0000#16, 0x0100#16] := by decide
theorem test_encodeF32Order3412 :
    (after (exec .encodeF32Order3412 (onValue 0x405EDD2F1A9FBE77#64))).out.words = some [0xE979#16, 0x42F6#16] := by decide
/-- 1 + 3·2^-24: a tie, to even. -/
theorem test_encodeF32Order3412_tie :
    (after (exec .encodeF32Order3412 (onValue 0x3FF0000030000000#64))).out.words = some [0x0002#16, 0x3F80#16] := by decide
theorem test_encodeF32Order4321 :
    (after (exec .encodeF32Order4321 (onValue 0x405EDD2F1A9FBE77#64))).out.words = some [0x79E9#16, 0xF642#16] := by decide
/-- The negative infinity. -/
theorem test_encodeF32Order4321_infinity :
    (after (exec .encodeF32Order4321 (onValue 0xFFF0000000000000#64))).out.words = some [0x0000#16, 0x80FF#16] := by decide
/-- -100.7. -/
theorem test_encodeI16S : (after (exec (.encodeI16S 0#16) (onValue 0xC0592CCCCCCCCCCD#64))).out.words = some [0xFF9C#16] := by
  decide
theorem test_encodeI16S_nan :
    (after (exec (.encodeI16S 0#16) (onValue 0x7FF8000000000000#64))).out.outcome = some .valueError := by decide
/-- 70000.9 wraps. -/
theorem test_encodeI16U : (after (exec (.encodeI16U 0#16) (onValue 0x40F1170E66666666#64))).out.words = some [0x1170#16] := by
  decide
/-- 5.0 with arg16 = 0xFFFF (section 7). -/
theorem test_encodeI16U_arg16_ignored :
    (after (exec (.encodeI16U 0xFFFF#16) (onValue 0x4014000000000000#64))).out.words = some [0x0005#16] := by decide

/-! ## Response payloads (T4.1 to T4.3, S1, S2) -/

theorem test_packBits :
    (after (exec .packBits (onResults [1#16, 0#16, 1#16, 1#16, 0#16, 0#16, 1#16, 1#16, 0#16, 1#16]))).out.dout =
      some [0xCD#8, 0x02#8] := by decide
theorem test_packBits_lsb :
    (after (exec .packBits { onResults [2#16, 4#16, 1#16] with
      params := { rtuBufCap := none, bitCoerce := .lsb } })).out.dout = some [0x04#8] := by decide
theorem test_packWords :
    (after (exec .packWords (onResults [0x0064#16, 0xABCD#16, 0x0000#16, 0xFFFF#16]))).out.dout =
      some [0x00#8, 0x64#8, 0xAB#8, 0xCD#8, 0x00#8, 0x00#8, 0xFF#8, 0xFF#8] := by decide
theorem test_pduResponse : (after (exec (.pduResponse 3#8) (onResults [0x0064#16]))).out.dout =
    some [0x03#8, 0x02#8, 0x00#8, 0x64#8] := by decide
theorem test_pduResponse_unsupported :
    (after (exec (.pduResponse 5#8) (onResults [1#16]))).out = raisedWith .unsupportedFc (some (.fc 5#8)) := by decide
theorem test_readCoils :
    (after (exec (.readCoils 0#16 10#16) (onResults (List.replicate 10 0#16)))).out.dout =
      some [0x01#8, 0x02#8, 0x00#8, 0x00#8] := by decide
theorem test_readDiscreteInputs :
    (after (exec (.readDiscreteInputs 0#16 3#16) (onResults [1#16, 0#16, 1#16]))).out.dout =
      some [0x02#8, 0x01#8, 0x05#8] := by decide
theorem test_readHoldingRegisters :
    (after (exec (.readHoldingRegisters 0#16 1#16) (onResults [0x0064#16]))).out.dout =
      some [0x03#8, 0x02#8, 0x00#8, 0x64#8] := by decide
theorem test_readInputRegisters :
    (after (exec (.readInputRegisters 0#16 2#16) (onResults [0x42F6#16, 0xE979#16]))).out.dout =
      some [0x04#8, 0x04#8, 0x42#8, 0xF6#8, 0xE9#8, 0x79#8] := by decide

/-! ## Modbus/TCP (T5.1, T5.2) -/

theorem test_mbapDecode :
    (after (exec .mbapDecode (onDin [0xAB#8, 0xCD#8, 0x12#8, 0x34#8, 0x00#8, 0x08#8, 0x11#8, 0x04#8, 0x00#8, 0x10#8, 0x00#8,
      0x02#8, 0xEE#8, 0xFF#8]))).out =
      { Outputs.idle with
        outcome := some .ok, tid := some 0xABCD#16, pid := some 0x1234#16, len := some 8#16, uid := some 0x11#8,
        fc := some 4#8, start := some 0x0010#16, qty := some 2#16, consumed := some 14 } := by decide
theorem test_mbapDecode_need_more :
    (after (exec .mbapDecode (onDin [0x00#8, 0x01#8, 0x00#8, 0x00#8, 0xFF#8, 0xFF#8, 0x01#8]))).out =
      raisedWith .needMore none := by decide
theorem test_mbapEncode :
    (after (exec (.mbapEncode 3#8) (onPorts { Inputs.idle with tid := 1#16, uid := 1#8, results := [0x0064#16] }))).out.dout =
      some [0x00#8, 0x01#8, 0x00#8, 0x00#8, 0x00#8, 0x05#8, 0x01#8, 0x03#8, 0x02#8, 0x00#8, 0x64#8] := by decide
theorem test_mbapEncode_unsupported :
    (after (exec (.mbapEncode 6#8) (onResults [1#16]))).out = raisedWith .unsupportedFc (some (.fc 6#8)) := by decide

/-! ## Modbus RTU (T6.1 to T6.3) -/

theorem test_rtuDecode :
    (after (exec .rtuDecode { onDin [0x11#8, 0x01#8, 0x00#8, 0x13#8, 0x00#8, 0x25#8, 0x0E#8, 0x84#8] with
      unitId := 0x11#8 })).out =
      { Outputs.idle with
        outcome := some .ok, uid := some 0x11#8, fc := some 1#8, start := some 0x0013#16, qty := some 37#16 } := by decide +kernel
/-- The trailer is checked before the unit. -/
theorem test_rtuDecode_crc_first :
    (after (exec .rtuDecode (onDin [0x02#8, 0x06#8, 0x00#8, 0x01#8, 0x00#8, 0x03#8, 0x98#8, 0x0B#8]))).out =
      raisedWith .dropCrc none := by decide +kernel
theorem test_rtuEncode :
    (after (exec (.rtuEncode 3#8) (onResults [0x0064#16]))).out.dout =
      some [0x01#8, 0x03#8, 0x02#8, 0x00#8, 0x64#8, 0xB9#8, 0xAF#8] := by decide +kernel
theorem test_rtuEncode_empty :
    (after (exec (.rtuEncode 2#8) (onResults []))).out.dout = some [0x01#8, 0x02#8, 0x00#8, 0x21#8, 0x60#8] := by decide +kernel
/-- V6.1, the feed of the last byte. -/
theorem test_rtuFeed_resync :
    (after (exec (.rtuFeed 0x0A#8) (withBuf [0xAA#8, 0xBB#8, 0xCC#8, 1#8, 3#8, 0#8, 0#8, 0#8, 1#8, 0x84#8]))) =
      { State.reset with out := { Outputs.idle with
        outcome := some .ok, frame := some [1#8, 3#8, 0#8, 0#8, 0#8, 1#8, 0x84#8, 0x0A#8], uid := some 1#8, fc := some 3#8,
        start := some 0#16, qty := some 1#16 } } := by decide +kernel
/-- V6.9, the feed of the last byte: a 9-byte frame is accepted and dropped. -/
theorem test_rtuFeed_long_frame :
    (after (exec (.rtuFeed 0x32#8) (withBuf [1#8, 3#8, 4#8, 0#8, 1#8, 0#8, 2#8, 0x2A#8]))).out =
      { Outputs.idle with outcome := some .dropLength, info := some (.length 9),
                          frame := some [1#8, 3#8, 4#8, 0#8, 1#8, 0#8, 2#8, 0x2A#8, 0x32#8] } := by decide +kernel

/-! ## The step -/

/-- P5 row 4: CRC_INIT with arg8 = 1. -/
theorem test_step_bad_command :
    (after (step { State.reset with crcAcc := 0x807E#16, inbox := [.present (.command 0x00000101#32) Inputs.idle] })) =
      { State.reset with crcAcc := 0x807E#16, out := raisedWith .badCommand (some (.commandWord 0x00000101#32)) } := by decide
/-- The first instruction after reset. -/
theorem test_step_runs_fetch_word :
    (after (step (State.reset.withFetchWord 8 0x03))).out.dout = some [0x03#8, 0x00#8] := by decide

/-- The request of S1 twice on one connection: each is answered (R101) with the draws of its own round (R128 (2)). -/
theorem test_tcpSession_fresh_draws :
    (tcpSession (fun k _ _ => if k = 0 then 0x0064#16 else 0x0065#16) 2 State.reset
        ([0#8, 1#8, 0#8, 0#8, 0#8, 6#8, 1#8, 3#8, 0#8, 0#8, 0#8, 1#8] ++
          [0#8, 1#8, 0#8, 0#8, 0#8, 6#8, 1#8, 3#8, 0#8, 0#8, 0#8, 1#8]) false).written =
      [0#8, 1#8, 0#8, 0#8, 0#8, 5#8, 1#8, 3#8, 2#8, 0x00#8, 0x64#8] ++
        [0#8, 1#8, 0#8, 0#8, 0#8, 5#8, 1#8, 3#8, 2#8, 0x00#8, 0x65#8] := by decide +kernel

/-! ## Witnesses: the hypotheses of each statement can be met -/

theorem witness_EncodeOfDecodeIsIdentity :
    ((Code.pdu [1#8, 0#8, 0#8, 0#8, 1#8]).wf = true ∧ decode (.pdu [1#8, 0#8, 0#8, 0#8, 1#8]) = .instr (.readCoils 0#16 1#16)) ∧
      (Code.command 0x10E10110#32).wf = true ∧ decode (.command 0x10E10110#32) = .instr .encodeF32Order4321 := by decide

theorem witness_IllegalOpEndsWithBadCommand :
    (0x00000006#32 : CommandWord).extractLsb' 0 8 ∉ [0x01#8, 0x02#8, 0x03#8, 0x04#8, 0x05#8, 0x10#8, 0x20#8, 0x21#8, 0x22#8, 0x30#8,
        0x31#8, 0x40#8, 0x41#8, 0x42#8] := by decide

theorem witness_ReservedFieldEndsWithBadCommand :
    (((0x00000101#32 : CommandWord).extractLsb' 0 8 ∈ [0x01#8, 0x03#8, 0x04#8, 0x05#8, 0x20#8, 0x21#8, 0x30#8, 0x40#8] ∧
        (0x00000101#32 : CommandWord).extractLsb' 8 8 ≠ 0#8) ∧
      (0x80000042#32 : CommandWord).extractLsb' 0 8 ∈ [0x02#8, 0x22#8, 0x31#8, 0x41#8, 0x42#8] ∧
        (0x80000042#32 : CommandWord).extractLsb' 16 16 ≠ 0#16) ∧
      (0xFFFF0310#32 : CommandWord).extractLsb' 0 8 = 0x10#8 ∧ (0x00000310#32 : CommandWord).extractLsb' 0 8 = 0x10#8 ∧
        (0xFFFF0310#32 : CommandWord).extractLsb' 8 8 = (0x00000310#32 : CommandWord).extractLsb' 8 8 ∧
        (0xFFFF0310#32 : CommandWord).extractLsb' 8 8 ≠ 0x01#8 := by decide

theorem witness_EncodeConfigurationErrors :
    ((0x00000410#32 : CommandWord).extractLsb' 0 8 = 0x10#8 ∧ 4 ≤ ((0x00000410#32 : CommandWord).extractLsb' 8 8).toNat) ∧
      (0x04D30110#32 : CommandWord).extractLsb' 0 16 = 0x0110#16 ∧
        (0x04D30110#32 : CommandWord).extractLsb' 16 16 ∉ [0x04D2#16, 0x085F#16, 0x0D54#16, 0x10E1#16] := by decide

/-- A state in which CRC_UPDATE of 0x01 is presented next. -/
def updateNext : State := { State.reset with inbox := [.present (.command 0x00000102#32) Inputs.idle] }

theorem witness_StepRunsDecodedInstruction_rejected :
    ∃ s : State, s.inReset = false ∧ s.inbox = .present (.command 0x00000006#32) Inputs.idle :: [] ∧
      decode (.command 0x00000006#32) = .reject (.badCommand 0x00000006#32) :=
  ⟨{ State.reset with inbox := [.present (.command 0x00000006#32) Inputs.idle] }, by decide⟩
theorem witness_StepRunsDecodedInstruction :
    updateNext.inReset = false ∧ updateNext.inbox = .present (.command 0x00000102#32) Inputs.idle :: [] ∧
      decode (.command 0x00000102#32) = .instr (.crcUpdate 0x01#8) := by decide

theorem witness_ResetSequenceLeavesResetValues :
    ∃ s : State, s.inbox =
      .assertReset :: .present (.command 0x00000102#32) Inputs.idle :: .configure 0x11#8 :: .releaseReset :: [] :=
  ⟨{ withBuf [1#8] with
      inbox := .assertReset :: .present (.command 0x00000102#32) Inputs.idle :: .configure 0x11#8 :: .releaseReset :: [] }, rfl⟩

theorem witness_UnitIdWrittenOnlyInReset :
    ∃ s t : State, step s = .next t ∧ t.unitId ≠ s.unitId :=
  ⟨{ State.reset with inReset := true, inbox := [.configure 0x11#8] }, _, rfl, by decide⟩

theorem witness_CommandsWriteTheirOwnStateOnly_acc :
    ∃ s t : State, exec (.crcUpdate 0x01#8) s = .next t ∧ t.crcAcc ≠ s.crcAcc := ⟨State.reset, _, rfl, by decide⟩
theorem witness_CommandsWriteTheirOwnStateOnly_buf :
    ∃ s t : State, exec (.rtuFeed 0x11#8) s = .next t ∧ t.rtuBuf ≠ s.rtuBuf := ⟨State.reset, _, rfl, by decide⟩
theorem witness_CommandsWriteTheirOwnStateOnly_draws :
    ∃ s t : State, exec .encodeF32Order1234 s = .next t ∧ t.nanDraws ≠ s.nanDraws :=
  ⟨onValue 0x7FF8000000000000#64, _, rfl, by decide⟩

theorem witness_FailedCommandsWriteNoState_other :
    ∃ s t : State, runCode (.command 0x00000006#32) s = .next t ∧ t.out.outcome ≠ some .ok ∧
      ∀ b, decode (.command 0x00000006#32) ≠ .instr (.rtuFeed b) :=
  ⟨State.reset, _, rfl, by decide, fun _ => by simp [show decode (.command 0x00000006#32) = .reject (.badCommand 0x00000006#32) by decide]⟩
theorem witness_FailedCommandsWriteNoState_kept :
    ∃ s t : State, runCode (.command 0x00001142#32) s = .next t ∧ t.out.outcome = some .noFrame ∧
      decode (.command 0x00001142#32) = .instr (.rtuFeed 0x11#8) := ⟨State.reset, _, rfl, by decide, by decide⟩
theorem rtuFeed_after (b : Byte) (s : State) : exec (.rtuFeed b) s = .next (after (exec (.rtuFeed b) s)) := by
  simp only [exec, execRtuFeed, scanBuffer]
  split <;> rfl
theorem runCode_feed_39 (s : State) : runCode (.command 0x00003942#32) s = .next (after (exec (.rtuFeed 0x39#8) s)) := by
  rw [runCode, show decode (.command 0x00003942#32) = .instr (.rtuFeed 0x39#8) by decide]
  exact rtuFeed_after _ _
theorem witness_FailedCommandsWriteNoState_dropped :
    ∃ s t : State, runCode (.command 0x00003942#32) s = .next t ∧ t.out.outcome = some .dropUnit ∧
      decode (.command 0x00003942#32) = .instr (.rtuFeed 0x39#8) :=
  ⟨withBuf [2#8, 3#8, 0#8, 0#8, 0#8, 1#8, 0x84#8], _, runCode_feed_39 _, by decide +kernel, by decide⟩

theorem witness_InfoFollowsTheOutcome :
    ∃ s t : State, runCode (.command 0x00003942#32) s = .next t ∧ t.out.outcome = some .dropUnit ∧ t.out.frame ≠ none :=
  ⟨withBuf [2#8, 3#8, 0#8, 0#8, 0#8, 1#8, 0x84#8], _, runCode_feed_39 _, by decide +kernel, by decide +kernel⟩

theorem witness_OutputsDependOnOperandsAlone :
    ∃ s₁ s₂ t₁ t₂ : State, s₁.inp = s₂.inp ∧ s₁.params = s₂.params ∧ s₁.nanDraws = s₂.nanDraws ∧ s₁.crcAcc ≠ s₂.crcAcc ∧
      s₁.unitId ≠ s₂.unitId ∧ exec .mbapDecode s₁ = .next t₁ ∧ exec .mbapDecode s₂ = .next t₂ :=
  ⟨State.reset, { State.reset with crcAcc := 0#16, unitId := 0x11#8 }, _, _, rfl, rfl, rfl, by decide, by decide, rfl, rfl⟩

theorem witness_CrcCheckResult :
    (onDin [0xFF#8]).inp.din.length < 2 ∧ (onDin [0xFF#8, 0xFF#8]).inp.din = [] ++ [0xFF#8, 0xFF#8] := by decide

theorem witness_StreamingCrcEqualsOneShot :
    ∃ s : State, s.inReset = false ∧ s.inbox = assemble (.crcSeq [1#8, 3#8]) ++ [.assertReset] :=
  ⟨{ withBuf [7#8] with inbox := assemble (.crcSeq [1#8, 3#8]) ++ [.assertReset] }, rfl, rfl⟩

theorem witness_CrcResidueLaw : 2 ≤ (onDin [0xFF#8, 0xFF#8]).inp.din.length := by decide

theorem witness_EncodeFloat32WordOrder :
    f32Of (nanOfDraw (onValue 0x3FF0000000000000#64).nanDraws) (onValue 0x3FF0000000000000#64).inp.value =
      .ok 0x3F800000#32 := by
  rw [f32Of, if_neg (by decide), if_neg (by decide), if_neg (by decide)]
  exact congrArg Except.ok (by decide)

theorem witness_Float32PermutationRoundTrip :
    ∃ (s : State) (p : Binary32), f32Of (nanOfDraw s.nanDraws) s.inp.value = .ok p :=
  ⟨onValue 0x3FF0000000000000#64, _, witness_EncodeFloat32WordOrder⟩

/-- Zero, the least magnitude, and the predecessor of the overflow threshold. -/
theorem witness_EncodeFloat32RoundsToNearestEven :
    (FiniteValue (onValue 0#64).inp.value ∧ exactMagnitude (onValue 0#64).inp.value < (2 ^ 128 - 2 ^ 103) * 2 ^ 1074) ∧
      FiniteValue (onValue 0x47EFFFFFEFFFFFFF#64).inp.value ∧
        exactMagnitude (onValue 0x47EFFFFFEFFFFFFF#64).inp.value < (2 ^ 128 - 2 ^ 103) * 2 ^ 1074 := by
  unfold FiniteValue
  decide +kernel

/-- The threshold itself, and its predecessor. -/
theorem witness_EncodeFloat32OverflowThreshold :
    (FiniteValue (onValue 0x47EFFFFFF0000000#64).inp.value ∧
        (2 ^ 128 - 2 ^ 103) * 2 ^ 1074 ≤ exactMagnitude (onValue 0x47EFFFFFF0000000#64).inp.value) ∧
      FiniteValue (onValue 0x47EFFFFFEFFFFFFF#64).inp.value ∧
        ¬ (2 ^ 128 - 2 ^ 103) * 2 ^ 1074 ≤ exactMagnitude (onValue 0x47EFFFFFEFFFFFFF#64).inp.value := by
  unfold FiniteValue
  decide +kernel

theorem witness_EncodeFloat32Infinities :
    (onValue 0xFFF0000000000000#64).inp.value = (if true then 0xFFF0000000000000#64 else 0x7FF0000000000000#64) ∧
      (onValue 0x7FF0000000000000#64).inp.value = (if false then 0xFFF0000000000000#64 else 0x7FF0000000000000#64) := by
  decide

theorem witness_EncodeFloat32OfNan :
    NanValue (onValue 0x7FF0000000000001#64).inp.value ∧ NanPattern 0xFF800001#32 := by
  unfold NanValue NanPattern
  decide

theorem witness_EncodeInt16Result :
    FiniteValue (onValue 0xC0592CCCCCCCCCCD#64).inp.value ∧ ¬ FiniteValue (onValue 0x7FF0000000000000#64).inp.value := by
  unfold FiniteValue
  decide

theorem witness_BitCoercionsAgreeOnBits : ∀ r ∈ [0#16, 1#16], r = 0#16 ∨ r = 1#16 := by simp

/-- The limits of R95: the last quantity that fits and the first that does not, for bits and for words. -/
theorem witness_PduResponseResult :
    (ResponseFits .readCoils (onResults (List.replicate 2040 1#16)).inp.results.length ∧
        ¬ ResponseFits .readDiscreteInputs (onResults (List.replicate 2041 1#16)).inp.results.length) ∧
      (ResponseFits .readHoldingRegisters (onResults (List.replicate 127 1#16)).inp.results.length ∧
        ¬ ResponseFits .readInputRegisters (onResults (List.replicate 128 1#16)).inp.results.length) ∧
      0x05#8 ∉ [0x01#8, 0x02#8, 0x03#8, 0x04#8] := by
  refine ⟨⟨?_, ?_⟩, ⟨?_, ?_⟩, by decide⟩ <;>
    (unfold ResponseFits onResults onPorts; norm_num)

theorem witness_RequestRowsResult :
    ResponseFits .readCoils (onResults (List.replicate 2040 1#16)).inp.results.length ∧
      ¬ ResponseFits .readHoldingRegisters (onResults (List.replicate 128 1#16)).inp.results.length := by
  refine ⟨?_, ?_⟩ <;> (unfold ResponseFits onResults onPorts; norm_num)

theorem witness_ResponseLimits :
    ∃ t, exec (.pduResponse 0x03#8) (onResults [0x0064#16]) = .next t ∧
      t.out.dout = some [0x03#8, 0x02#8, 0x00#8, 0x64#8] := ⟨_, rfl, by decide⟩

/-- A frame with one extra PDU byte, and one byte of the next frame. -/
theorem witness_MbapDecodeAcceptsRequests :
    [0xAA#8].length + 6 < 65536 ∧
      (onDin [0x12#8, 0x34#8, 0x00#8, 0x00#8, 0x00#8, 0x07#8, 0x01#8, 0x03#8, 0x00#8, 0x00#8, 0x00#8, 0x01#8, 0xAA#8,
        0xBB#8]).inp.din =
        be16Bytes 0x1234#16 ++ be16Bytes 0#16 ++ be16Bytes (BitVec.ofNat 16 ([0xAA#8].length + 6)) ++ [0x01#8] ++
          requestPdu .readHoldingRegisters 0#16 1#16 ++ [0xAA#8] ++ [0xBB#8] := by decide

/-- Six bytes; a length field of 1; one byte short; an unsupported code; a PDU of four bytes. -/
theorem witness_MbapDecodeOtherOutcomes :
    (onDin [0#8, 1#8, 0#8, 0#8, 0#8, 6#8]).inp.din.length < 7 ∧
      (1 = 256 * (([0#8, 1#8, 0#8, 0#8, 0#8, 1#8, 1#8] : List Byte).getD 4 0#8).toNat +
          (([0#8, 1#8, 0#8, 0#8, 0#8, 1#8, 1#8] : List Byte).getD 5 0#8).toNat ∧
        7 ≤ ([0#8, 1#8, 0#8, 0#8, 0#8, 1#8, 1#8] : List Byte).length ∧ 1 < 2) ∧
      (2 = 256 * (([0#8, 1#8, 0#8, 0#8, 0#8, 2#8, 1#8] : List Byte).getD 4 0#8).toNat +
          (([0#8, 1#8, 0#8, 0#8, 0#8, 2#8, 1#8] : List Byte).getD 5 0#8).toNat ∧
        ([0#8, 1#8, 0#8, 0#8, 0#8, 2#8, 1#8] : List Byte).length < 6 + 2) ∧
      (6 + 2 ≤ ([0#8, 1#8, 0#8, 0#8, 0#8, 2#8, 1#8, 5#8] : List Byte).length ∧
        ([0#8, 1#8, 0#8, 0#8, 0#8, 2#8, 1#8, 5#8] : List Byte).getD 7 0#8 ∉ [0x01#8, 0x02#8, 0x03#8, 0x04#8]) ∧
      (5 = 256 * (([0#8, 1#8, 0#8, 0#8, 0#8, 5#8, 1#8, 3#8, 0#8, 0#8, 0#8] : List Byte).getD 4 0#8).toNat +
          (([0#8, 1#8, 0#8, 0#8, 0#8, 5#8, 1#8, 3#8, 0#8, 0#8, 0#8] : List Byte).getD 5 0#8).toNat ∧
        6 + 5 ≤ ([0#8, 1#8, 0#8, 0#8, 0#8, 5#8, 1#8, 3#8, 0#8, 0#8, 0#8] : List Byte).length ∧
        ([0#8, 1#8, 0#8, 0#8, 0#8, 5#8, 1#8, 3#8, 0#8, 0#8, 0#8] : List Byte).getD 7 0#8 ∈
          [0x01#8, 0x02#8, 0x03#8, 0x04#8]) := by decide

theorem witness_MbapDecodeDependsOnItsFrame_frame :
    ∃ (s t : State) (frame more : List Byte), s.inp.din = frame ++ more ∧ exec .mbapDecode s = .next t ∧
      t.out.outcome ∈ [some .ok, some .unsupportedFc, some .malformedPdu] ∧
      frame.length = 6 + (256 * (s.inp.din.getD 4 0#8).toNat + (s.inp.din.getD 5 0#8).toNat) :=
  ⟨onDin [0#8, 1#8, 0#8, 0#8, 0#8, 2#8, 1#8, 5#8, 0xAA#8], _, [0#8, 1#8, 0#8, 0#8, 0#8, 2#8, 1#8, 5#8], [0xAA#8], by decide,
    rfl, by decide, by decide⟩
theorem witness_MbapDecodeDependsOnItsFrame_length :
    ∃ (s t : State) (frame more : List Byte), s.inp.din = frame ++ more ∧ exec .mbapDecode s = .next t ∧
      t.out.outcome = some .malformedLength ∧ frame.length = 7 :=
  ⟨onDin [0#8, 1#8, 0#8, 0#8, 0#8, 1#8, 1#8, 5#8], _, [0#8, 1#8, 0#8, 0#8, 0#8, 1#8, 1#8], [5#8], by decide, rfl, by decide,
    by decide⟩
theorem witness_MbapDecodeDependsOnItsFrame_more :
    ∃ s t : State, exec .mbapDecode s = .next t ∧ t.out.outcome = some .needMore :=
  ⟨onDin [0#8, 1#8], _, rfl, by decide⟩

theorem witness_MbapEncodeResult :
    ResponseFits .readHoldingRegisters (onResults [0x0064#16]).inp.results.length ∧
      ∃ t, exec (.pduResponse 0x05#8) (onResults [1#16]) = .next t ∧ t.out.outcome ≠ some .ok :=
  ⟨by simp [ResponseFits, onResults, onPorts], _, rfl, by decide⟩

theorem witness_MbapLengthLaw :
    ∃ t frame, exec (.mbapEncode (byteOfFunction .readInputRegisters)) (onResults [1#16]) = .next t ∧
      t.out.dout = some frame := ⟨_, _, rfl, rfl⟩

theorem witness_RtuDecodeResult :
    (onDin [1#8, 3#8, 0#8, 0#8, 0#8, 1#8, 0x84#8]).inp.din.length ≠ 8 ∧
      (onDin [1#8, 3#8, 0#8, 0#8, 0#8, 1#8, 0x84#8, 0x0A#8]).inp.din =
        [1#8, 3#8, 0#8, 0#8, 0#8, 1#8, 0x84#8, 0x0A#8] := by decide

theorem witness_RtuRequestDecodes :
    [1#8, 3#8, 0#8, 0#8, 0#8, 1#8] =
        [(onDin [1#8, 3#8, 0#8, 0#8, 0#8, 1#8, 0x84#8, 0x0A#8]).unitId] ++ requestPdu .readHoldingRegisters 0#16 1#16 ∧
      (onDin [1#8, 3#8, 0#8, 0#8, 0#8, 1#8, 0x84#8, 0x0A#8]).inp.din =
        [1#8, 3#8, 0#8, 0#8, 0#8, 1#8] ++ le16Bytes (crc16 [1#8, 3#8, 0#8, 0#8, 0#8, 1#8]) := by decide +kernel

theorem witness_RtuEncodeResult :
    ResponseFits .readDiscreteInputs (onResults []).inp.results.length ∧
      ∃ t, exec (.pduResponse 0x00#8) (onResults []) = .next t ∧ t.out.outcome ≠ some .ok :=
  ⟨by simp [ResponseFits, onResults, onPorts], _, rfl, by decide⟩

theorem witness_RtuFeedKeepsAccumulating : NoWindowMatches (bufferAfterFeed State.reset 0x11#8) := by
  intro len h8 hn
  have : (bufferAfterFeed State.reset 0x11#8).length = 1 := by decide
  omega

/-- A window of 9 bytes that no shorter one precedes (V6.9). -/
theorem witness_RtuFeedAcceptsShortestWindow :
    ∃ (s : State) (b : Byte), 9 ≤ (bufferAfterFeed s b).length ∧
      trailerMatches ((bufferAfterFeed s b).drop ((bufferAfterFeed s b).length - 9)) = true ∧
      ∀ k, 8 ≤ k → k < 9 → trailerMatches ((bufferAfterFeed s b).drop ((bufferAfterFeed s b).length - k)) = false := by
  refine ⟨withBuf [1#8, 3#8, 4#8, 0#8, 1#8, 0#8, 2#8, 0x2A#8], 0x32#8, by decide +kernel, by decide +kernel, ?_⟩
  intro k h8 h9
  obtain rfl : k = 8 := by omega
  decide +kernel

/-- A block of capacity 8. -/
def withBuf8 (buf : List Byte) : State :=
  { withBuf buf with params := { rtuBufCap := some 8, bitCoerce := .nonzero } }

/-- V6.10 beside V6.1, the feed of the last byte: the window is as long as the capacity. -/
theorem witness_CapacityKeepsShortWindows_short :
    ∃ s u v : State, s.params.rtuBufCap = some 8 ∧ u.params.rtuBufCap = none ∧ s.unitId = u.unitId ∧
      s.rtuBuf = u.rtuBuf.drop (u.rtuBuf.length - 8) ∧ exec (.rtuFeed 0x0A#8) u = .next v ∧
      v.out.frame.map List.length = some 8 :=
  ⟨withBuf8 [0xCC#8, 1#8, 3#8, 0#8, 0#8, 0#8, 1#8, 0x84#8],
    withBuf [0xAA#8, 0xBB#8, 0xCC#8, 1#8, 3#8, 0#8, 0#8, 0#8, 1#8, 0x84#8], _, by decide, by decide, by decide, by decide,
    rtuFeed_after _ _, by decide +kernel⟩
/-- V6.9, the feed of the last byte: the window is one byte longer than the capacity. -/
theorem witness_CapacityKeepsShortWindows_long :
    ∃ s u v : State, s.params.rtuBufCap = some 8 ∧ u.params.rtuBufCap = none ∧ s.unitId = u.unitId ∧
      s.rtuBuf = u.rtuBuf.drop (u.rtuBuf.length - 8) ∧ exec (.rtuFeed 0x32#8) u = .next v ∧
      v.out.frame.map List.length = some 9 :=
  ⟨withBuf8 [1#8, 3#8, 4#8, 0#8, 1#8, 0#8, 2#8, 0x2A#8], withBuf [1#8, 3#8, 4#8, 0#8, 1#8, 0#8, 2#8, 0x2A#8], _, by decide,
    by decide, by decide, by decide, rtuFeed_after _ _, by decide +kernel⟩

/-- An evaluated answer that ends with NO_FRAME is a next state with that outcome. -/
theorem ends_noFrame (a : Answer) (h : (match a with | .next t => t.out.outcome == some .noFrame | _ => false) = true) :
    ∃ t, a = .next t ∧ t.out.outcome = some .noFrame := by
  cases a with
  | next t => exact ⟨t, rfl, by simpa using h⟩
  | fault r => exact nomatch r
  | refused r => exact nomatch h

/-- The stream of V6.1, three garbage bytes and the frame F, fed to a buffer of capacity 8. -/
theorem witness_FramerResynchronises :
    ∃ (s : State) (garbage frame : List Byte), garbage.length = 3 ∧ frame.length = 8 ∧ trailerMatches frame = true ∧ s.rtuBuf = [] ∧
      (∀ cap, s.params.rtuBufCap = some cap → 8 ≤ cap) ∧
      ∀ fed b, fed ++ [b] <+: garbage ++ frame.dropLast →
        ∃ t, runInstrs ((fed ++ [b]).map .rtuFeed) s = .next t ∧ t.out.outcome = some .noFrame := by
  refine ⟨withBuf8 [], [0xAA#8, 0xBB#8, 0xCC#8], [1#8, 3#8, 0#8, 0#8, 0#8, 1#8, 0x84#8, 0x0A#8], rfl, rfl,
    by decide +kernel, rfl, ?_, ?_⟩
  · intro cap h
    simp only [withBuf8, Option.some.injEq] at h
    omega
  · intro fed b h
    have hlen : fed.length + 1 ≤ 10 := by simpa using h.length_le
    rw [List.prefix_iff_eq_take] at h
    rw [h]
    generalize hn : (fed ++ [b]).length = n
    have hn' : n = fed.length + 1 := by simpa using hn.symm
    have h1 : 1 ≤ n := by omega
    have h10 : n ≤ 10 := by omega
    clear hn hn' h hlen
    interval_cases n <;> exact ends_noFrame _ (by decide +kernel)

theorem witness_FramerInvariantKept : ∃ t, FramerInv State.reset ∧ step State.reset = .next t := by
  refine ⟨_, ⟨?_, ?_⟩, rfl⟩
  · intro cap h
    exact nomatch (h : (none : Option Nat) = some cap)
  · intro len h8 hn
    have : len ≤ 0 := hn
    omega

theorem witness_WellFormednessKept : ∃ t, updateNext.wf = true ∧ step updateNext = .next t := ⟨_, by decide, rfl⟩

theorem witness_TcpRoundWritesOnlyAnswers :
    (tcpRound (fun _ _ => 0#16) State.reset [0#8, 1#8, 0#8, 0#8, 0#8, 1#8, 1#8] false).action ≠ .answer := by decide

theorem witness_TcpRequestIsAnswered :
    State.reset.inReset = false ∧ [0xFF#8].length + 6 < 65536 ∧ ResponseFits .readHoldingRegisters (127#16 : Word).toNat := by
  simp [ResponseFits, State.reset]

/-- S3 and P2: the last byte of a request for this unit. -/
theorem witness_RtuRoundWritesOnlyForThisUnit :
    (rtuRound (fun _ _ => 0x0064#16) (withBuf [1#8, 3#8, 0#8, 0#8, 0#8, 1#8, 0x84#8]) 0x0A#8).written =
      [1#8, 3#8, 2#8, 0x00#8, 0x64#8, 0xB9#8, 0xAF#8] := by decide +kernel

end Sys2Proof.Tests
end

section
/-!
SUPPORT. What each command writes besides its output ports, said once (R33); what a step does with each
host event (R34, R129); and the invariant of O57: every update the block makes keeps the state well formed.
-/
namespace Sys2Proof.Machine

/-! ### What a command writes -/

/-- The bytes RTU_FEED leaves in `RTU_BUF` once the new byte is in it: none where a window is accepted (R111). -/
def keptBytes (buf : List Byte) : List Byte := if (acceptedWindow buf).isSome then [] else buf

/-- The state a command leaves but for its output ports: CRC_INIT and CRC_UPDATE write `CRC_ACC`, RTU_FEED writes
`RTU_BUF`, an ENCODE of Float32 may use a draw, and no other command writes anything. -/
def writtenState (i : Instr) (s : State) : State :=
  match i with
  | .crcInit => setCrcAcc s Config.crcInitValue
  | .crcUpdate b => setCrcAcc s (crcStep s.crcAcc b)
  | .encodeF32Order1234 | .encodeF32Order2143 | .encodeF32Order3412 | .encodeF32Order4321 => afterDraw s
  | .rtuFeed b => setRtuBuf s (keptBytes (appendByte s.params.rtuBufCap s.rtuBuf b))
  | _ => s

theorem scanBuffer_eq_emit (s : State) (buf : List Byte) :
    ∃ o, scanBuffer s buf = emit (setRtuBuf s (keptBytes buf)) o := by
  cases h : acceptedWindow buf with
  | none => exact ⟨_, by rw [scanBuffer_none s buf h, keptBytes, h]; rfl⟩
  | some w => exact ⟨_, by rw [scanBuffer_some s buf w h, keptBytes, h]; rfl⟩

/-- Every command ends by putting outputs on the ports of the state it has written. -/
theorem exec_eq_emit (i : Instr) (s : State) : ∃ o, exec i s = emit (writtenState i s) o := by
  cases i
  case rtuFeed b => exact scanBuffer_eq_emit s _
  all_goals exact ⟨_, rfl⟩

/-! ### What a step does with the next host event -/

theorem step_idle (s : State) (h : s.inbox = []) : step s = .next (clearPorts s) := by
  simp [step, h]

theorem step_present (s : State) (c : Code) (ports : Inputs) (rest : List HostEvent)
    (h : s.inbox = .present c ports :: rest) : step s = runPresented c ports (popEvent s rest) := by
  simp [step, h]

theorem step_assertReset (s : State) (rest : List HostEvent) (h : s.inbox = .assertReset :: rest) :
    step s = .next (assertReset (popEvent s rest)) := by
  simp [step, h]

theorem step_configure (s : State) (u : Byte) (rest : List HostEvent) (h : s.inbox = .configure u :: rest) :
    step s = .next (configureUnit (popEvent s rest) u) := by
  simp [step, h]

theorem step_releaseReset (s : State) (rest : List HostEvent) (h : s.inbox = .releaseReset :: rest) :
    step s = .next (releaseReset (popEvent s rest)) := by
  simp [step, h]

/-! ### The buffer and its capacity (R18, R113) -/

/-- An append never takes the buffer over a capacity it was within. -/
theorem appendByte_length_le (cap : Nat) (buf : List Byte) (b : Byte) (h : buf.length ≤ cap) :
    (appendByte (some cap) buf b).length ≤ cap := by
  simp only [appendByte]
  split
  · simpa using h
  · omega

theorem keptBytes_length_le (buf : List Byte) : (keptBytes buf).length ≤ buf.length := by
  unfold keptBytes
  split <;> simp

theorem withinCapacity_of_rtuBuf_nil (s : State) (h : s.rtuBuf = []) : WithinCapacity s := fun cap _ => by simp [h]

/-- RTU_FEED leaves the buffer within the capacity. -/
theorem withinCapacity_rtuFeed (s : State) (b : Byte) (h : WithinCapacity s) :
    WithinCapacity (setRtuBuf s (keptBytes (appendByte s.params.rtuBufCap s.rtuBuf b))) := by
  intro cap hcap
  rw [setRtuBuf_params] at hcap
  rw [setRtuBuf_rtuBuf, hcap]
  exact (keptBytes_length_le _).trans (appendByte_length_le cap _ b (h cap hcap))

/-! ### Updates keep a state well formed -/

/-- Well-formedness as four separate facts. -/
theorem State.wf_iff (s : State) :
    s.wf = true ↔
      s.params.wf = true ∧ WithinCapacity s ∧ s.inp.wf = true ∧ ∀ e ∈ s.inbox, e.wf = true := by
  unfold State.wf WithinCapacity
  cases s.params.rtuBufCap <;> simp [and_assoc]

@[simp] theorem setOut_wf (s : State) (o : Outputs) : (setOut s o).wf = s.wf := rfl
@[simp] theorem setCrcAcc_wf (s : State) (v : Word) : (setCrcAcc s v).wf = s.wf := rfl
@[simp] theorem advanceDraws_wf (s : State) : (advanceDraws s).wf = s.wf := rfl

@[simp] theorem afterDraw_wf (s : State) : (afterDraw s).wf = s.wf := by
  unfold afterDraw
  split <;> simp

/-- A new buffer needs only to be within the capacity. -/
theorem setRtuBuf_wf (s : State) (buf : List Byte) (h : s.wf = true) (hbuf : WithinCapacity (setRtuBuf s buf)) :
    (setRtuBuf s buf).wf = true := by
  obtain ⟨hparams, -, hinp, hinbox⟩ := s.wf_iff.1 h
  exact (State.wf_iff _).2 ⟨hparams, hbuf, hinp, hinbox⟩

theorem resetRegisters_wf (s : State) (h : s.wf = true) : (resetRegisters s).wf = true :=
  setRtuBuf_wf _ [] h (withinCapacity_of_rtuBuf_nil _ rfl)

/-- New port data needs only to be within the bound of the ports (R20). -/
theorem presentPorts_wf (s : State) (ports : Inputs) (h : s.wf = true) (hports : ports.wf = true) :
    (presentPorts s ports).wf = true := by
  obtain ⟨hparams, hcap, -, hinbox⟩ := s.wf_iff.1 h
  exact (State.wf_iff _).2 ⟨hparams, hcap, hports, hinbox⟩

theorem clearPorts_wf (s : State) (h : s.wf = true) : (clearPorts s).wf = true := presentPorts_wf s _ h rfl

theorem assertReset_wf (s : State) (h : s.wf = true) : (assertReset s).wf = true :=
  resetRegisters_wf _ (clearPorts_wf s h)

theorem releaseReset_wf (s : State) (h : s.wf = true) : (releaseReset s).wf = true :=
  resetRegisters_wf _ (clearPorts_wf s h)

theorem configureUnit_wf (s : State) (u : Byte) (h : s.wf = true) : (configureUnit s u).wf = true := by
  cases hr : s.inReset with
  | false => rw [configureUnit_outside s u hr]; exact clearPorts_wf s h
  | true => rw [configureUnit_inside s u hr]; exact clearPorts_wf s h

/-- A pending event of a well-formed state is well formed, and so is the state without it. -/
theorem popEvent_wf (s : State) (e : HostEvent) (rest : List HostEvent) (h : s.wf = true) (hbox : s.inbox = e :: rest) :
    e.wf = true ∧ (popEvent s rest).wf = true := by
  obtain ⟨hparams, hcap, hinp, hinbox⟩ := s.wf_iff.1 h
  obtain ⟨he, hrest⟩ := List.forall_mem_cons.1 (hbox ▸ hinbox)
  exact ⟨he, (State.wf_iff _).2 ⟨hparams, hcap, hinp, hrest⟩⟩

/-! ### Commands and steps keep a state well formed -/

theorem writtenState_wf (i : Instr) (s : State) (h : s.wf = true) : (writtenState i s).wf = true := by
  cases i
  case rtuFeed b =>
    obtain ⟨-, hcap, -, -⟩ := s.wf_iff.1 h
    exact setRtuBuf_wf s _ h (withinCapacity_rtuFeed s b hcap)
  all_goals simpa [writtenState] using h

theorem exec_wf (i : Instr) (s t : State) (h : s.wf = true) (ht : exec i s = .next t) : t.wf = true := by
  obtain ⟨o, ho⟩ := exec_eq_emit i s
  obtain rfl := (emit_eq_next _ _ _).1 (ho ▸ ht)
  exact writtenState_wf i s h

theorem runCode_wf (c : Code) (s t : State) (h : s.wf = true) (ht : runCode c s = .next t) : t.wf = true := by
  unfold runCode at ht
  split at ht
  · exact exec_wf _ s t h ht
  · obtain rfl := (rejected_eq_next _ _ _).1 ht
    exact h

theorem runPresented_wf (c : Code) (ports : Inputs) (s t : State) (h : s.wf = true) (hports : ports.wf = true)
    (ht : runPresented c ports s = .next t) : t.wf = true := by
  unfold runPresented at ht
  split at ht
  · obtain rfl := Host.Outcome.next.inj ht
    exact clearPorts_wf s h
  · exact runCode_wf c _ t (presentPorts_wf s ports h hports) ht

theorem step_wf (s t : State) (h : s.wf = true) (ht : step s = .next t) : t.wf = true := by
  cases hbox : s.inbox with
  | nil =>
    obtain rfl := Host.Outcome.next.inj (step_idle s hbox ▸ ht)
    exact clearPorts_wf s h
  | cons e rest =>
    obtain ⟨he, hpop⟩ := popEvent_wf s e rest h hbox
    cases e with
    | present c ports => exact runPresented_wf c ports _ t hpop he (step_present s c ports rest hbox ▸ ht)
    | assertReset =>
      obtain rfl := Host.Outcome.next.inj (step_assertReset s rest hbox ▸ ht)
      exact assertReset_wf _ hpop
    | configure u =>
      obtain rfl := Host.Outcome.next.inj (step_configure s u rest hbox ▸ ht)
      exact configureUnit_wf _ u hpop
    | releaseReset =>
      obtain rfl := Host.Outcome.next.inj (step_releaseReset s rest hbox ▸ ht)
      exact releaseReset_wf _ hpop

/-- Settles O57: `exec_eq_emit` leaves RTU_FEED as the only command that moves the buffer, and an append with a finite
capacity drops a byte; events taken off the inbox bring only well-formed ports. -/
theorem wellFormednessKept : Obligations.WellFormednessKept := step_wf

end Sys2Proof.Machine
end

section
/-!
SUPPORT. The frame of a command (R33): which of the block's fields it can write, and the outputs it ends with,
each said once for all instructions.
-/
namespace Sys2Proof.Machine

/-! ### A draw of `NAN_F32` -/

/-- `isNaN` reads the same two fields as the statements' `NanValue` (R11). -/
theorem isNaN_iff_nanValue (v : Binary64) : isNaN v = true ↔ NanValue v := by
  simp [isNaN, NanValue, exponentOf, fractionOf, ← BitVec.toNat_inj]

/-- The use of a draw moves the count of draws and no other field. -/
theorem afterDraw_eq (s : State) : afterDraw s = { s with nanDraws := (afterDraw s).nanDraws } := by
  unfold afterDraw
  split <;> rfl

@[simp] theorem afterDraw_crcAcc (s : State) : (afterDraw s).crcAcc = s.crcAcc := by rw [afterDraw_eq]
@[simp] theorem afterDraw_rtuBuf (s : State) : (afterDraw s).rtuBuf = s.rtuBuf := by rw [afterDraw_eq]

/-- Only a NaN uses a draw (R74). -/
theorem nanValue_of_afterDraw_ne (s : State) (h : (afterDraw s).nanDraws ≠ s.nanDraws) : NanValue s.inp.value := by
  by_contra hnan
  rw [← isNaN_iff_nanValue] at hnan
  exact h (by simp [afterDraw, hnan])

/-! ### The fields a command writes -/

/-- Besides its output ports a command can write `CRC_ACC`, `RTU_BUF` and the count of draws, and nothing else. -/
theorem writtenState_eq (i : Instr) (s : State) :
    writtenState i s =
      { s with
          crcAcc := (writtenState i s).crcAcc, rtuBuf := (writtenState i s).rtuBuf,
          nanDraws := (writtenState i s).nanDraws } := by
  cases i
  case encodeF32Order1234 | encodeF32Order2143 | encodeF32Order3412 | encodeF32Order4321 =>
    simpa [writtenState] using afterDraw_eq s
  all_goals rfl

@[simp] theorem writtenState_unitId (i : Instr) (s : State) : (writtenState i s).unitId = s.unitId := by
  rw [writtenState_eq]
@[simp] theorem writtenState_inReset (i : Instr) (s : State) : (writtenState i s).inReset = s.inReset := by
  rw [writtenState_eq]
@[simp] theorem writtenState_params (i : Instr) (s : State) : (writtenState i s).params = s.params := by
  rw [writtenState_eq]
@[simp] theorem writtenState_inp (i : Instr) (s : State) : (writtenState i s).inp = s.inp := by
  rw [writtenState_eq]
@[simp] theorem writtenState_inbox (i : Instr) (s : State) : (writtenState i s).inbox = s.inbox := by
  rw [writtenState_eq]

/-- `CRC_ACC` is written by CRC_INIT and CRC_UPDATE only (R14). -/
theorem crc_command_of_crcAcc_ne (i : Instr) (s : State) (h : (writtenState i s).crcAcc ≠ s.crcAcc) :
    i = .crcInit ∨ ∃ b, i = .crcUpdate b := by
  cases i
  case crcInit => exact .inl rfl
  case crcUpdate b => exact .inr ⟨b, rfl⟩
  all_goals exact absurd (by simp [writtenState]) h

/-- `RTU_BUF` is written by RTU_FEED only (R18). -/
theorem rtuFeed_of_rtuBuf_ne (i : Instr) (s : State) (h : (writtenState i s).rtuBuf ≠ s.rtuBuf) :
    ∃ b, i = .rtuFeed b := by
  cases i
  case rtuFeed b => exact ⟨b, rfl⟩
  all_goals exact absurd (by simp [writtenState]) h

/-- A draw is used by ENCODE of Float32 only, and there for a NaN only (R74). -/
theorem encodeF32_nan_of_nanDraws_ne (i : Instr) (s : State) (h : (writtenState i s).nanDraws ≠ s.nanDraws) :
    (∃ o, i = encodeF32Instr o) ∧ NanValue s.inp.value := by
  cases i
  case encodeF32Order1234 => exact ⟨⟨.order1234, rfl⟩, nanValue_of_afterDraw_ne s h⟩
  case encodeF32Order2143 => exact ⟨⟨.order2143, rfl⟩, nanValue_of_afterDraw_ne s h⟩
  case encodeF32Order3412 => exact ⟨⟨.order3412, rfl⟩, nanValue_of_afterDraw_ne s h⟩
  case encodeF32Order4321 => exact ⟨⟨.order4321, rfl⟩, nanValue_of_afterDraw_ne s h⟩
  all_goals exact absurd rfl h

/-! ### The outputs a command ends with -/

/-- The outputs of RTU_FEED on the buffer that holds the new byte: those of RTU_DECODE of an accepted window, with the
window on `frame`, or NO_FRAME (R111). -/
def feedOutputs (unitId : Byte) (buf : List Byte) : Outputs :=
  match acceptedWindow buf with
  | some w => { rtuOutputs unitId w with frame := some w }
  | none => raisedOutputs { code := .noFrame, info := none }

/-- The outputs a command ends with, as a function of the state it is presented on. -/
def commandOutputs (i : Instr) (s : State) : Outputs :=
  match i with
  | .crcInit | .crcUpdate _ => okOutputs
  | .crcRead => { okOutputs with crc := some s.crcAcc }
  | .crc16 => { okOutputs with crc := some (crc16 s.inp.din) }
  | .crcCheck => { okOutputs with matched := some (trailerMatches s.inp.din) }
  | .encodeBool _ => { okOutputs with words := some [if truthy s.inp.value then 1#16 else 0#16] }
  | .encodeF32Order1234 => f32Outputs .order1234 (nanOfDraw s.nanDraws) s.inp.value
  | .encodeF32Order2143 => f32Outputs .order2143 (nanOfDraw s.nanDraws) s.inp.value
  | .encodeF32Order3412 => f32Outputs .order3412 (nanOfDraw s.nanDraws) s.inp.value
  | .encodeF32Order4321 => f32Outputs .order4321 (nanOfDraw s.nanDraws) s.inp.value
  | .encodeI16S _ | .encodeI16U _ => i16Outputs s.inp.value
  | .packBits => { okOutputs with dout := some (packBits s.params.bitCoerce s.inp.results) }
  | .packWords => { okOutputs with dout := some (packWords s.inp.results) }
  | .pduResponse fc => doutOutputs (responsePdu s.params.bitCoerce fc s.inp.results)
  | .mbapDecode => mbapOutputs s.inp.din s.inp.eof
  | .mbapEncode fc =>
    doutOutputs ((responsePdu s.params.bitCoerce fc s.inp.results).map (mbapFrame s.inp.tid s.inp.uid))
  | .rtuDecode => rtuOutputs s.unitId s.inp.din
  | .rtuEncode fc => doutOutputs ((responsePdu s.params.bitCoerce fc s.inp.results).map (rtuFrame s.unitId))
  | .rtuFeed b => feedOutputs s.unitId (appendByte s.params.rtuBufCap s.rtuBuf b)
  | .readCoils start qty => requestOutputs s.params.bitCoerce .readCoils start qty s.inp.results
  | .readDiscreteInputs start qty => requestOutputs s.params.bitCoerce .readDiscreteInputs start qty s.inp.results
  | .readHoldingRegisters start qty => requestOutputs s.params.bitCoerce .readHoldingRegisters start qty s.inp.results
  | .readInputRegisters start qty => requestOutputs s.params.bitCoerce .readInputRegisters start qty s.inp.results

theorem scanBuffer_eq_emit_feedOutputs (s : State) (buf : List Byte) :
    scanBuffer s buf = emit (setRtuBuf s (keptBytes buf)) (feedOutputs s.unitId buf) := by
  cases h : acceptedWindow buf with
  | none => simp [scanBuffer_none s buf h, keptBytes, feedOutputs, h, emit]
  | some w => simp [scanBuffer_some s buf w h, keptBytes, feedOutputs, h, emit]

/-- A command writes its fields and ends with its outputs, whatever the state. -/
theorem exec_eq_emit_commandOutputs (i : Instr) (s : State) :
    exec i s = emit (writtenState i s) (commandOutputs i s) := by
  cases i
  case rtuFeed b => exact scanBuffer_eq_emit_feedOutputs s _
  all_goals rfl

theorem exec_eq_next (i : Instr) (s t : State) :
    exec i s = .next t ↔ t = setOut (writtenState i s) (commandOutputs i s) := by
  rw [exec_eq_emit_commandOutputs, emit_eq_next]

end Sys2Proof.Machine
end

section
/-!
SUPPORT. Everything one step can do, said once (R34, R129, R135): an invariant of the block is proved by the cases of
`StepsTo`.
-/
namespace Sys2Proof.Machine

/-- The ways a step leads from a state to the next, one for each host event and what the reset input makes of it. -/
inductive StepsTo (s : State) : State → Prop where
  /-- no event is pending (R136) -/
  | idle (hbox : s.inbox = []) : StepsTo s (clearPorts s)
  /-- a command during reset is dropped (assumption 5) -/
  | dropped {c : Code} {ports : Inputs} {rest : List HostEvent} (hbox : s.inbox = .present c ports :: rest)
      (hreset : s.inReset = true) : StepsTo s (clearPorts (popEvent s rest))
  /-- a command runs on the ports presented with it -/
  | executed {c : Code} {ports : Inputs} {rest : List HostEvent} {i : Instr} {t : State}
      (hbox : s.inbox = .present c ports :: rest) (hreset : s.inReset = false) (hcode : decode c = .instr i)
      (hexec : exec i (presentPorts (popEvent s rest) ports) = .next t) : StepsTo s t
  /-- bits that are no instruction end with the rejection's outcome (R41, R42, R71) -/
  | rejected {c : Code} {ports : Inputs} {rest : List HostEvent} {r : Reject}
      (hbox : s.inbox = .present c ports :: rest) (hreset : s.inReset = false) (hcode : decode c = .reject r) :
      StepsTo s (setOut (presentPorts (popEvent s rest) ports) (raisedOutputs (raisedOfReject r)))
  /-- reset is asserted (R135) -/
  | resetAsserted {rest : List HostEvent} (hbox : s.inbox = .assertReset :: rest) :
      StepsTo s (assertReset (popEvent s rest))
  /-- `UNIT_ID` is configured (R127) -/
  | configured {u : Byte} {rest : List HostEvent} (hbox : s.inbox = .configure u :: rest)
      (hreset : s.inReset = true) : StepsTo s { clearPorts (popEvent s rest) with unitId := u }
  /-- a configuration outside reset is dropped (assumption 5) -/
  | configureDropped {u : Byte} {rest : List HostEvent} (hbox : s.inbox = .configure u :: rest)
      (hreset : s.inReset = false) : StepsTo s (clearPorts (popEvent s rest))
  /-- reset is released (R135) -/
  | resetReleased {rest : List HostEvent} (hbox : s.inbox = .releaseReset :: rest) :
      StepsTo s (releaseReset (popEvent s rest))

theorem stepsTo_of_runPresented (s t : State) (c : Code) (ports : Inputs) (rest : List HostEvent)
    (hbox : s.inbox = .present c ports :: rest) (ht : runPresented c ports (popEvent s rest) = .next t) :
    StepsTo s t := by
  unfold runPresented at ht
  split at ht
  next hreset =>
    obtain rfl := Host.Outcome.next.inj ht
    exact .dropped hbox hreset
  next hreset =>
    have hout : s.inReset = false := by simpa using hreset
    unfold runCode at ht
    split at ht
    next i hcode => exact .executed hbox hout hcode ht
    next r hcode =>
      obtain rfl := (rejected_eq_next _ _ _).1 ht
      exact .rejected hbox hout hcode

theorem stepsTo_of_configureUnit (s : State) (u : Byte) (rest : List HostEvent)
    (hbox : s.inbox = .configure u :: rest) : StepsTo s (configureUnit (popEvent s rest) u) := by
  cases hreset : s.inReset with
  | false => exact configureUnit_outside (popEvent s rest) u hreset ▸ .configureDropped hbox hreset
  | true => exact configureUnit_inside (popEvent s rest) u hreset ▸ .configured hbox hreset

/-- Every step is one of the ways of `StepsTo`. -/
theorem stepsTo_of_step (s t : State) (ht : step s = .next t) : StepsTo s t := by
  cases hbox : s.inbox with
  | nil =>
    obtain rfl := Host.Outcome.next.inj (step_idle s hbox ▸ ht)
    exact .idle hbox
  | cons e rest =>
    cases e with
    | present c ports => exact stepsTo_of_runPresented s t c ports rest hbox (step_present s c ports rest hbox ▸ ht)
    | assertReset =>
      obtain rfl := Host.Outcome.next.inj (step_assertReset s rest hbox ▸ ht)
      exact .resetAsserted hbox
    | configure u =>
      obtain rfl := Host.Outcome.next.inj (step_configure s u rest hbox ▸ ht)
      exact stepsTo_of_configureUnit s u rest hbox
    | releaseReset =>
      obtain rfl := Host.Outcome.next.inj (step_releaseReset s rest hbox ▸ ht)
      exact .resetReleased hbox

end Sys2Proof.Machine
end

section
/-!
SUPPORT. The framer's invariant (spec/10_state.md R18, R19; spec/45_rtu.md R111 to R113): O56 and, at reset, O55.
-/
namespace Sys2Proof.Machine

theorem noWindowMatches_nil : NoWindowMatches [] := fun len h8 hlen => by
  have : len ≤ 0 := hlen
  omega

/-- What RTU_FEED keeps holds no complete frame: either no window was accepted, or nothing is kept (R111). -/
theorem noWindowMatches_keptBytes (buf : List Byte) : NoWindowMatches (keptBytes buf) := by
  cases h : acceptedWindow buf with
  | none =>
    have hkept : keptBytes buf = buf := by simp [keptBytes, h]
    rw [hkept]
    exact (acceptedWindow_eq_none buf).1 h
  | some w => simpa [keptBytes, h] using noWindowMatches_nil

theorem framerInv_of_rtuBuf_nil (s : State) (h : s.rtuBuf = []) : FramerInv s :=
  ⟨withinCapacity_of_rtuBuf_nil s h, h ▸ noWindowMatches_nil⟩

/-- The invariant reads the parameters and the buffer only. -/
theorem FramerInv.congr {s t : State} (h : FramerInv s) (hparams : t.params = s.params) (hbuf : t.rtuBuf = s.rtuBuf) :
    FramerInv t := by
  unfold FramerInv WithinCapacity at *
  rwa [hparams, hbuf]

/-- RTU_FEED keeps the invariant by its own scan, and every other command by leaving the buffer alone. -/
theorem exec_framerInv (i : Instr) (s t : State) (h : FramerInv s) (ht : exec i s = .next t) : FramerInv t := by
  obtain rfl := (exec_eq_next i s t).1 ht
  by_cases hbuf : (writtenState i s).rtuBuf = s.rtuBuf
  · exact h.congr (by simp) (by simpa using hbuf)
  · obtain ⟨b, rfl⟩ := rtuFeed_of_rtuBuf_ne i s hbuf
    exact ⟨withinCapacity_rtuFeed s b h.1, noWindowMatches_keptBytes _⟩

theorem step_framerInv (s t : State) (h : FramerInv s) (ht : step s = .next t) : FramerInv t := by
  cases stepsTo_of_step s t ht with
  | executed _ _ _ hexec =>
    refine exec_framerInv _ _ t ?_ hexec
    exact h.congr rfl rfl
  | resetAsserted | resetReleased => exact framerInv_of_rtuBuf_nil _ rfl
  | idle | dropped | rejected | configured | configureDropped => exact h.congr rfl rfl

/-- Settles O56: only RTU_FEED and a reset write the buffer, and what RTU_FEED keeps has just been searched for a
matching window. -/
theorem framerInvariantKept : Obligations.FramerInvariantKept := step_framerInv

/-- Settles O55: an empty buffer satisfies the invariant, and the default parameters are legal. -/
theorem invariantsHoldAtReset : Obligations.InvariantsHoldAtReset := ⟨framerInv_of_rtuBuf_nil _ rfl, by decide⟩

end Sys2Proof.Machine
end

section
/-!
SUPPORT. The frame statements about the state (spec/10_state.md): O9, O11, O12, O13 and O19.
-/
namespace Sys2Proof.Machine

/-! ### Registers -/

/-- Settles O9. -/
theorem resetRegisterValues : Obligations.ResetRegisterValues := ⟨rfl, rfl⟩

theorem step_params (s t : State) (ht : step s = .next t) : t.params = s.params := by
  cases stepsTo_of_step s t ht with
  | executed _ _ _ hexec => simp [(exec_eq_next _ _ _).1 hexec]
  | idle | dropped | rejected | resetAsserted | configured | configureDropped | resetReleased => rfl

/-- `UNIT_ID` is written by a configuration during reset only (R17, R127). -/
theorem configured_of_unitId_ne (s t : State) (ht : step s = .next t) (h : t.unitId ≠ s.unitId) :
    s.inReset = true ∧ ∃ rest, s.inbox = .configure t.unitId :: rest := by
  cases stepsTo_of_step s t ht with
  | configured hbox hreset => exact ⟨hreset, _, hbox⟩
  | executed _ _ _ hexec => exact absurd (by simp [(exec_eq_next _ _ _).1 hexec]) h
  | idle | dropped | rejected | resetAsserted | configureDropped | resetReleased => exact absurd rfl h

/-- Settles O11, by the cases of a step. -/
theorem unitIdWrittenOnlyInReset : Obligations.UnitIdWrittenOnlyInReset := fun s t ht =>
  ⟨step_params s t ht, configured_of_unitId_ne s t ht⟩

/-- Settles O13, from the fields `writtenState` leaves as they are. -/
theorem commandsWriteTheirOwnStateOnly : Obligations.CommandsWriteTheirOwnStateOnly := by
  intro i s t ht
  obtain rfl := (exec_eq_next i s t).1 ht
  exact ⟨crc_command_of_crcAcc_ne i s, rtuFeed_of_rtuBuf_ne i s, encodeF32_nan_of_nanDraws_ne i s,
    writtenState_unitId i s, writtenState_inReset i s, writtenState_params i s, writtenState_inp i s,
    writtenState_inbox i s⟩

/-! ### Ports -/

/-- Settles O12: whatever the next event is, the step first replaces both ports (R20). -/
theorem nothingOnPortsSurvives : Obligations.NothingOnPortsSurvives := by
  intro s p o
  obtain ⟨_, _, _, _, _, _, _, inbox, _⟩ := s
  cases inbox with
  | nil => rfl
  | cons e rest =>
    cases e with
    | present | assertReset | configure | releaseReset => rfl

/-- The outputs of every command but CRC_READ and RTU_FEED are a function of the input ports, the parameters and the
count of draws, and for RTU_DECODE and RTU_ENCODE of `UNIT_ID` (R13). -/
theorem commandOutputs_congr (i : Instr) (s₁ s₂ : State) (hread : i ≠ .crcRead) (hfeed : ∀ b, i ≠ .rtuFeed b)
    (hinp : s₁.inp = s₂.inp) (hparams : s₁.params = s₂.params) (hdraws : s₁.nanDraws = s₂.nanDraws)
    (hunit : s₁.unitId = s₂.unitId ∨ (i ≠ .rtuDecode ∧ ∀ fc, i ≠ .rtuEncode fc)) :
    commandOutputs i s₁ = commandOutputs i s₂ := by
  cases i
  case crcRead => exact absurd rfl hread
  case rtuFeed b => exact absurd rfl (hfeed b)
  case rtuDecode =>
    have hid : s₁.unitId = s₂.unitId := hunit.resolve_right fun h => h.1 rfl
    simp [commandOutputs, hid, hinp]
  case rtuEncode fc =>
    have hid : s₁.unitId = s₂.unitId := hunit.resolve_right fun h => h.2 fc rfl
    simp [commandOutputs, hid, hinp, hparams]
  all_goals simp [commandOutputs, hinp, hparams, hdraws]

/-- Settles O19. -/
theorem outputsDependOnOperandsAlone : Obligations.OutputsDependOnOperandsAlone := by
  intro i s₁ s₂ t₁ t₂ hread hfeed hinp hparams hdraws hunit h₁ h₂
  obtain rfl := (exec_eq_next i s₁ t₁).1 h₁
  obtain rfl := (exec_eq_next i s₂ t₂).1 h₂
  exact commandOutputs_congr i s₁ s₂ hread hfeed hinp hparams hdraws hunit

end Sys2Proof.Machine
end

section
/-!
SUPPORT. A command presented out of reset (R31, R39): O7.
-/
namespace Sys2Proof.Machine

/-- Out of reset a presented command runs on the ports presented with it (R135). -/
theorem runPresented_outside (c : Code) (ports : Inputs) (s : State) (h : s.inReset = false) :
    runPresented c ports s = runCode c (presentPorts s ports) := by
  simp [runPresented, h]

/-- Bits that decode to an instruction run it (R39). -/
theorem runCode_instr (c : Code) (i : Instr) (s : State) (h : decode c = .instr i) : runCode c s = exec i s := by
  simp [runCode, h]

/-- Settles O7: taking the event off the inbox and presenting its ports gives exactly the state `t`. -/
theorem stepRunsDecodedInstruction : Obligations.StepRunsDecodedInstruction := by
  intro s t c ports rest hreset hbox ht
  have hstate : t = presentPorts (popEvent s rest) ports := ht
  have hstep : step s = runCode c t := by
    rw [step_present s c ports rest hbox, runPresented_outside c ports (popEvent s rest) hreset, hstate]
  exact ⟨hstep, fun i hcode => hstep.trans (runCode_instr c i t hcode)⟩

end Sys2Proof.Machine
end

section
/-!
SUPPORT. The opcode map read row by row (spec/30_encoding.md R40 to R44): which decoder a command word's op selects,
and what each of those decoders answers.
-/
namespace Sys2Proof

/-! ### The rows of the opcode map -/

/-- The commands whose arg8 and arg16 must both be 0, each with its op (R40). -/
inductive NoArgsRow : Byte → Instr → Prop where
  | crcInit : NoArgsRow 0x01#8 .crcInit
  | crcRead : NoArgsRow 0x03#8 .crcRead
  | crc16 : NoArgsRow 0x04#8 .crc16
  | crcCheck : NoArgsRow 0x05#8 .crcCheck
  | packBits : NoArgsRow 0x20#8 .packBits
  | packWords : NoArgsRow 0x21#8 .packWords
  | mbapDecode : NoArgsRow 0x30#8 .mbapDecode
  | rtuDecode : NoArgsRow 0x40#8 .rtuDecode

/-- The commands that use arg8 and whose arg16 must be 0, each with its op (R40). -/
inductive ByteArgRow : Byte → (Byte → Instr) → Prop where
  | crcUpdate : ByteArgRow 0x02#8 .crcUpdate
  | pduResponse : ByteArgRow 0x22#8 .pduResponse
  | mbapEncode : ByteArgRow 0x31#8 .mbapEncode
  | rtuEncode : ByteArgRow 0x41#8 .rtuEncode
  | rtuFeed : ByteArgRow 0x42#8 .rtuFeed

theorem exists_noArgsRow (op : Byte)
    (h : op ∈ [0x01#8, 0x03#8, 0x04#8, 0x05#8, 0x20#8, 0x21#8, 0x30#8, 0x40#8]) : ∃ i, NoArgsRow op i := by
  simp only [List.mem_cons, List.not_mem_nil, or_false] at h
  obtain rfl | rfl | rfl | rfl | rfl | rfl | rfl | rfl := h
  exacts [⟨_, .crcInit⟩, ⟨_, .crcRead⟩, ⟨_, .crc16⟩, ⟨_, .crcCheck⟩, ⟨_, .packBits⟩, ⟨_, .packWords⟩,
    ⟨_, .mbapDecode⟩, ⟨_, .rtuDecode⟩]

theorem exists_byteArgRow (op : Byte) (h : op ∈ [0x02#8, 0x22#8, 0x31#8, 0x41#8, 0x42#8]) :
    ∃ mk, ByteArgRow op mk := by
  simp only [List.mem_cons, List.not_mem_nil, or_false] at h
  obtain rfl | rfl | rfl | rfl | rfl := h
  exacts [⟨_, .crcUpdate⟩, ⟨_, .pduResponse⟩, ⟨_, .mbapEncode⟩, ⟨_, .rtuEncode⟩, ⟨_, .rtuFeed⟩]

/-! ### The decoder an op selects -/

theorem decodeCommand_noArgs (w : CommandWord) (i : Instr) (h : NoArgsRow (cmdOp w) i) :
    decodeCommand w = decodeNoArgs w i := by
  generalize hop : cmdOp w = op at h
  cases h <;> simp [decodeCommand, hop]

theorem decodeCommand_byteArg (w : CommandWord) (mk : Byte → Instr) (h : ByteArgRow (cmdOp w) mk) :
    decodeCommand w = decodeByteArg w mk := by
  generalize hop : cmdOp w = op at h
  cases h <;> simp [decodeCommand, hop]

theorem decodeCommand_encode (w : CommandWord) (h : cmdOp w = 0x10#8) : decodeCommand w = decodeEncode w := by
  simp [decodeCommand, h]

/-- A word whose op is none of the 14 is illegal (R42). -/
theorem decodeCommand_illegal (w : CommandWord)
    (h : cmdOp w ∉ [0x01#8, 0x02#8, 0x03#8, 0x04#8, 0x05#8, 0x10#8, 0x20#8, 0x21#8, 0x22#8, 0x30#8, 0x31#8, 0x40#8,
      0x41#8, 0x42#8]) : decodeCommand w = .reject (.badCommand w) := by
  simp only [List.mem_cons, List.not_mem_nil, or_false, not_or, ← BitVec.toNat_inj, BitVec.toNat_ofNat] at h
  unfold decodeCommand
  split
  case h_15 => rfl
  all_goals omega

/-- Every command word is of one of four kinds: a row without arguments, a row with arg8, ENCODE, or illegal. -/
theorem decodeCommand_cases (w : CommandWord) :
    (∃ i, NoArgsRow (cmdOp w) i) ∨ (∃ mk, ByteArgRow (cmdOp w) mk) ∨ cmdOp w = 0x10#8 ∨
      decodeCommand w = .reject (.badCommand w) := by
  by_cases hno : cmdOp w ∈ [0x01#8, 0x03#8, 0x04#8, 0x05#8, 0x20#8, 0x21#8, 0x30#8, 0x40#8]
  · exact .inl (exists_noArgsRow _ hno)
  by_cases hbyte : cmdOp w ∈ [0x02#8, 0x22#8, 0x31#8, 0x41#8, 0x42#8]
  · exact .inr (.inl (exists_byteArgRow _ hbyte))
  by_cases henc : cmdOp w = 0x10#8
  · exact .inr (.inr (.inl henc))
  · refine .inr (.inr (.inr (decodeCommand_illegal w ?_)))
    simp only [List.mem_cons, not_or] at hno hbyte ⊢
    tauto

/-! ### Commands other than ENCODE -/

theorem decodeNoArgs_eq_instr (w : CommandWord) (i j : Instr) :
    decodeNoArgs w i = .instr j ↔ (cmdArg8 w = 0#8 ∧ cmdArg16 w = 0#16) ∧ i = j := by
  by_cases h : cmdArg8 w = 0#8 ∧ cmdArg16 w = 0#16 <;> simp [decodeNoArgs, h]

theorem decodeByteArg_eq_instr (w : CommandWord) (mk : Byte → Instr) (j : Instr) :
    decodeByteArg w mk = .instr j ↔ cmdArg16 w = 0#16 ∧ mk (cmdArg8 w) = j := by
  by_cases h : cmdArg16 w = 0#16 <;> simp [decodeByteArg, h]

/-- A "must be 0" field that is not zero (R41). -/
theorem decodeNoArgs_reserved (w : CommandWord) (i : Instr) (h : cmdArg8 w ≠ 0#8 ∨ cmdArg16 w ≠ 0#16) :
    decodeNoArgs w i = .reject (.badCommand w) := if_neg (not_and_or.2 h)

theorem decodeByteArg_reserved (w : CommandWord) (mk : Byte → Instr) (h : cmdArg16 w ≠ 0#16) :
    decodeByteArg w mk = .reject (.badCommand w) := if_neg h

/-! ### ENCODE (R43, R44, R71) -/

/-- Every dataType code is one of the four defined ones or out of range (R43). -/
theorem dataType_cases (t : Byte) : t = 0#8 ∨ t = 1#8 ∨ t = 2#8 ∨ t = 3#8 ∨ 4 ≤ t.toNat := by bv_omega

theorem orderOfCode_eq_some (w : Word) (o : ByteOrder) : orderOfCode w = some o ↔ w = codeOfOrder o := by
  constructor
  · intro h
    simp only [orderOfCode] at h
    split_ifs at h <;> cases h <;> assumption
  · rintro rfl
    exact orderOfCode_codeOfOrder o

theorem orderOfCode_eq_none (w : Word) (h : w ∉ [0x04D2#16, 0x085F#16, 0x0D54#16, 0x10E1#16]) :
    orderOfCode w = none := by
  simp only [List.mem_cons, List.not_mem_nil, or_false, not_or] at h
  simp [orderOfCode, h]

theorem decodeEncode_bool (w : CommandWord) (h : cmdArg8 w = 0#8) :
    decodeEncode w = .instr (.encodeBool (cmdArg16 w)) := by simp [decodeEncode, h]

theorem decodeEncode_i16S (w : CommandWord) (h : cmdArg8 w = 2#8) :
    decodeEncode w = .instr (.encodeI16S (cmdArg16 w)) := by simp [decodeEncode, h]

theorem decodeEncode_i16U (w : CommandWord) (h : cmdArg8 w = 3#8) :
    decodeEncode w = .instr (.encodeI16U (cmdArg16 w)) := by simp [decodeEncode, h]

theorem decodeEncode_f32 (w : CommandWord) (o : ByteOrder) (h : cmdArg8 w = 1#8) (ho : cmdArg16 w = codeOfOrder o) :
    decodeEncode w = .instr (encodeF32Instr o) := by simp [decodeEncode, h, ho]

theorem decodeEncode_unknownOrder (w : CommandWord) (h : cmdArg8 w = 1#8) (ho : orderOfCode (cmdArg16 w) = none) :
    decodeEncode w = .reject (.configOrder (cmdArg16 w)) := by simp [decodeEncode, h, ho]

theorem decodeEncode_unknownType (w : CommandWord) (h : 4 ≤ (cmdArg8 w).toNat) :
    decodeEncode w = .reject (.configType (cmdArg8 w)) := by
  unfold decodeEncode
  split
  case h_5 => rfl
  all_goals omega

/-- A Float32 ENCODE that is an instruction has the byte order its arg16 names (R44). -/
theorem decodeEncode_f32_eq_instr (w : CommandWord) (i : Instr) (h : cmdArg8 w = 1#8)
    (hi : decodeEncode w = .instr i) : ∃ o, cmdArg16 w = codeOfOrder o ∧ i = encodeF32Instr o := by
  cases ho : orderOfCode (cmdArg16 w) with
  | none => simp [decodeEncode_unknownOrder w h ho] at hi
  | some o =>
    have hcode := (orderOfCode_eq_some _ o).1 ho
    rw [decodeEncode_f32 w o h hcode, Decoded.instr.injEq] at hi
    exact ⟨o, hcode, hi.symm⟩

end Sys2Proof
end

section
/-!
SUPPORT. Decoder and encoder are inverse on command words and on request PDUs of 5 bytes (spec/30_encoding.md R39 to
R45, R51): O1, O2 and O3.
-/
namespace Sys2Proof

/-! ### The encoder by rows -/

theorem encode_noArgsRow (op : Byte) (i : Instr) (h : NoArgsRow op i) :
    encode i = .command (mkCommand 0#16 0#8 op) := by cases h <;> rfl

theorem encode_byteArgRow (op : Byte) (mk : Byte → Instr) (h : ByteArgRow op mk) (b : Byte) :
    encode (mk b) = .command (mkCommand 0#16 b op) := by cases h <;> rfl

theorem encode_encodeF32Instr (o : ByteOrder) :
    encode (encodeF32Instr o) = .command (mkCommand (codeOfOrder o) 1#8 0x10#8) := by cases o <;> rfl

theorem encode_requestInstr (f : FunctionCode) (start qty : Word) :
    encode (requestInstr f start qty) = .pdu (requestPdu f start qty) := by cases f <;> rfl

/-! ### Decoding an instruction's own bits -/

theorem decode_encode_noArgsRow (op : Byte) (i : Instr) (h : NoArgsRow op i) : decode (encode i) = .instr i := by
  rw [encode_noArgsRow op i h, decode, decodeCommand_noArgs _ i (by simpa using h)]
  simp [decodeNoArgs_eq_instr]

theorem decode_encode_byteArgRow (op : Byte) (mk : Byte → Instr) (h : ByteArgRow op mk) (b : Byte) :
    decode (encode (mk b)) = .instr (mk b) := by
  rw [encode_byteArgRow op mk h b, decode, decodeCommand_byteArg _ mk (by simpa using h)]
  simp [decodeByteArg_eq_instr]

theorem decode_encode_encodeF32Instr (o : ByteOrder) :
    decode (encode (encodeF32Instr o)) = .instr (encodeF32Instr o) := by
  rw [encode_encodeF32Instr, decode, decodeCommand_encode _ (by simp)]
  exact decodeEncode_f32 _ o (by simp) (by simp)

/-- A request PDU decodes to its function-code row (R45, R51). -/
theorem decodePdu_requestPdu (f : FunctionCode) (start qty : Word) :
    decodePdu (requestPdu f start qty) = .instr (requestInstr f start qty) := by
  simp [decodePdu, requestPdu, be16Bytes, be16At]

theorem decode_encode_requestInstr (f : FunctionCode) (start qty : Word) :
    decode (encode (requestInstr f start qty)) = .instr (requestInstr f start qty) := by
  rw [encode_requestInstr]
  exact decodePdu_requestPdu f start qty

/-- Settles O1, by the kinds of rows the instructions belong to. -/
theorem decodeOfEncodeIsIdentity : Obligations.DecodeOfEncodeIsIdentity := by
  intro i
  cases i with
  | crcInit => exact decode_encode_noArgsRow _ _ .crcInit
  | crcUpdate b => exact decode_encode_byteArgRow _ _ .crcUpdate b
  | crcRead => exact decode_encode_noArgsRow _ _ .crcRead
  | crc16 => exact decode_encode_noArgsRow _ _ .crc16
  | crcCheck => exact decode_encode_noArgsRow _ _ .crcCheck
  | encodeBool a =>
    simp [encode, decode, decodeCommand_encode, decodeEncode_bool]
  | encodeF32Order1234 => exact decode_encode_encodeF32Instr .order1234
  | encodeF32Order2143 => exact decode_encode_encodeF32Instr .order2143
  | encodeF32Order3412 => exact decode_encode_encodeF32Instr .order3412
  | encodeF32Order4321 => exact decode_encode_encodeF32Instr .order4321
  | encodeI16S a =>
    simp [encode, decode, decodeCommand_encode, decodeEncode_i16S]
  | encodeI16U a =>
    simp [encode, decode, decodeCommand_encode, decodeEncode_i16U]
  | packBits => exact decode_encode_noArgsRow _ _ .packBits
  | packWords => exact decode_encode_noArgsRow _ _ .packWords
  | pduResponse fc => exact decode_encode_byteArgRow _ _ .pduResponse fc
  | mbapDecode => exact decode_encode_noArgsRow _ _ .mbapDecode
  | mbapEncode fc => exact decode_encode_byteArgRow _ _ .mbapEncode fc
  | rtuDecode => exact decode_encode_noArgsRow _ _ .rtuDecode
  | rtuEncode fc => exact decode_encode_byteArgRow _ _ .rtuEncode fc
  | rtuFeed b => exact decode_encode_byteArgRow _ _ .rtuFeed b
  | readCoils start qty => exact decode_encode_requestInstr .readCoils start qty
  | readDiscreteInputs start qty => exact decode_encode_requestInstr .readDiscreteInputs start qty
  | readHoldingRegisters start qty => exact decode_encode_requestInstr .readHoldingRegisters start qty
  | readInputRegisters start qty => exact decode_encode_requestInstr .readInputRegisters start qty

/-! ### Encoding what bits decode to -/

/-- A command word is its three fields (R39). -/
theorem mkCommand_fields (w : CommandWord) : mkCommand (cmdArg16 w) (cmdArg8 w) (cmdOp w) = w := by
  apply BitVec.eq_of_getLsbD_eq
  intro i h
  interval_cases i <;> simp [mkCommand, cmdArg16, cmdArg8, cmdOp]

/-- An ENCODE word that is an instruction is that instruction's own word. -/
theorem encode_of_decodeEncode (w : CommandWord) (i : Instr) (h : decodeEncode w = .instr i) :
    encode i = .command (mkCommand (cmdArg16 w) (cmdArg8 w) 0x10#8) := by
  obtain ht | ht | ht | ht | ht := dataType_cases (cmdArg8 w)
  · obtain rfl := Decoded.instr.inj (decodeEncode_bool w ht ▸ h)
    rw [ht]; rfl
  · obtain ⟨o, ho, rfl⟩ := decodeEncode_f32_eq_instr w i ht h
    rw [ht, ho, encode_encodeF32Instr]
  · obtain rfl := Decoded.instr.inj (decodeEncode_i16S w ht ▸ h)
    rw [ht]; rfl
  · obtain rfl := Decoded.instr.inj (decodeEncode_i16U w ht ▸ h)
    rw [ht]; rfl
  · simp [decodeEncode_unknownType w ht] at h

theorem encode_of_decodeCommand (w : CommandWord) (i : Instr) (h : decodeCommand w = .instr i) :
    encode i = .command w := by
  have hfields := mkCommand_fields w
  obtain ⟨j, hrow⟩ | ⟨mk, hrow⟩ | hop | hillegal := decodeCommand_cases w
  · rw [decodeCommand_noArgs w j hrow, decodeNoArgs_eq_instr] at h
    obtain ⟨⟨h8, h16⟩, rfl⟩ := h
    rw [encode_noArgsRow _ j hrow, ← h8, ← h16, hfields]
  · rw [decodeCommand_byteArg w mk hrow, decodeByteArg_eq_instr] at h
    obtain ⟨h16, rfl⟩ := h
    rw [encode_byteArgRow _ mk hrow, ← h16, hfields]
  · rw [decodeCommand_encode w hop] at h
    rw [encode_of_decodeEncode w i h, ← hop, hfields]
  · simp [hillegal] at h

/-- A request PDU of 5 bytes that is an instruction is that instruction's own PDU (R45). -/
theorem encode_of_decodePdu (pdu : List Byte) (i : Instr) (hlen : pdu.length = 5) (h : decodePdu pdu = .instr i) :
    encode i = .pdu pdu := by
  match pdu, hlen with
  | [b0, b1, b2, b3, b4], _ =>
    cases hf : functionOfByte b0 with
    | none => simp [decodePdu, hf] at h
    | some f =>
      obtain rfl : requestInstr f (wordOfBytes b1 b2) (wordOfBytes b3 b4) = i := by
        simpa [decodePdu, hf, be16At] using h
      obtain rfl := (functionOfByte_eq_some b0 f).1 hf
      simp [encode_requestInstr, requestPdu, be16Bytes]

/-- Settles O2. -/
theorem encodeOfDecodeIsIdentity : Obligations.EncodeOfDecodeIsIdentity := by
  intro c i hwf h
  cases c with
  | command w => exact encode_of_decodeCommand w i h
  | pdu bytes => exact encode_of_decodePdu bytes i (by simpa [Code.wf] using hwf) h

/-- Settles O3: six closed facts the decoder computes. -/
theorem tableWordsDecodeRight : Obligations.TableWordsDecodeRight := by
  unfold Obligations.TableWordsDecodeRight
  decide

end Sys2Proof
end

section
/-!
SUPPORT. Command words that are no instruction (spec/30_encoding.md R41 to R44; spec/42_codec.md R71): O4, O5 and O6.
-/
namespace Sys2Proof.Machine

/-- Bits the decoder rejects end the command with the rejection's outcome, and only the output ports change. -/
theorem runCode_reject (c : Code) (r : Reject) (s : State) (h : decode c = .reject r) :
    runCode c s = .next (setOut s (raisedOutputs (raisedOfReject r))) := by
  simp only [runCode, h]
  rfl

/-- Settles O4. -/
theorem illegalOpEndsWithBadCommand : Obligations.IllegalOpEndsWithBadCommand := fun s w hop =>
  runCode_reject (.command w) _ s (decodeCommand_illegal w hop)

/-- A word with a "must be 0" field that is not zero is no instruction (R41). -/
theorem decodeCommand_reserved (w : CommandWord)
    (h : (cmdOp w ∈ [0x01#8, 0x03#8, 0x04#8, 0x05#8, 0x20#8, 0x21#8, 0x30#8, 0x40#8] ∧
        (cmdArg8 w ≠ 0#8 ∨ cmdArg16 w ≠ 0#16)) ∨
      (cmdOp w ∈ [0x02#8, 0x22#8, 0x31#8, 0x41#8, 0x42#8] ∧ cmdArg16 w ≠ 0#16)) :
    decodeCommand w = .reject (.badCommand w) := by
  obtain ⟨hop, hargs⟩ | ⟨hop, harg⟩ := h
  · obtain ⟨i, hrow⟩ := exists_noArgsRow _ hop
    rw [decodeCommand_noArgs w i hrow, decodeNoArgs_reserved w i hargs]
  · obtain ⟨mk, hrow⟩ := exists_byteArgRow _ hop
    rw [decodeCommand_byteArg w mk hrow, decodeByteArg_reserved w mk harg]

/-- ENCODE of a type other than Float32 runs the same whatever arg16 holds (R41). -/
theorem runCode_encode_congr (s : State) (v w : CommandWord) (hv : cmdOp v = 0x10#8) (hw : cmdOp w = 0x10#8)
    (harg : cmdArg8 v = cmdArg8 w) (hf32 : cmdArg8 v ≠ 1#8) :
    runCode (.command v) s = runCode (.command w) s := by
  simp only [runCode, decode, decodeCommand_encode v hv, decodeCommand_encode w hw]
  obtain ht | ht | ht | ht | ht := dataType_cases (cmdArg8 v)
  · rw [decodeEncode_bool v ht, decodeEncode_bool w (harg ▸ ht)]; rfl
  · exact absurd ht hf32
  · rw [decodeEncode_i16S v ht, decodeEncode_i16S w (harg ▸ ht)]; rfl
  · rw [decodeEncode_i16U v ht, decodeEncode_i16U w (harg ▸ ht)]; rfl
  · rw [decodeEncode_unknownType v ht, decodeEncode_unknownType w (harg ▸ ht), harg]

/-- Settles O5. -/
theorem reservedFieldEndsWithBadCommand : Obligations.ReservedFieldEndsWithBadCommand :=
  ⟨fun s w h => runCode_reject (.command w) _ s (decodeCommand_reserved w h), runCode_encode_congr⟩

/-- The two low bytes of a command word are its arg8 and its op (R39). -/
theorem extractLsb'_low_eq_wordOfBytes (w : CommandWord) : w.extractLsb' 0 16 = wordOfBytes (cmdArg8 w) (cmdOp w) := by
  apply BitVec.eq_of_getLsbD_eq
  intro i h
  interval_cases i <;> simp [wordOfBytes, cmdArg8, cmdOp]

/-- The low bytes 0x0110 are op ENCODE with dataType Float32 (R43). -/
theorem fields_of_f32_lowBytes (w : CommandWord) (h : w.extractLsb' 0 16 = 0x0110#16) :
    cmdOp w = 0x10#8 ∧ cmdArg8 w = 1#8 := by
  rw [extractLsb'_low_eq_wordOfBytes] at h
  constructor
  · rw [← lowByte_wordOfBytes (cmdArg8 w) (cmdOp w), h]; rfl
  · rw [← highByte_wordOfBytes (cmdArg8 w) (cmdOp w), h]; rfl

/-- Settles O6: the data type is checked before the byte order, and the value port not at all (R71). -/
theorem encodeConfigurationErrors : Obligations.EncodeConfigurationErrors := by
  constructor
  · intro s w hop htype
    have hreject : decodeCommand w = .reject (.configType (cmdArg8 w)) := by
      rw [decodeCommand_encode w hop, decodeEncode_unknownType w htype]
    exact runCode_reject (.command w) _ s hreject
  · intro s w hlow horder
    obtain ⟨hop, htype⟩ := fields_of_f32_lowBytes w hlow
    have hreject : decodeCommand w = .reject (.configOrder (cmdArg16 w)) := by
      rw [decodeCommand_encode w hop, decodeEncode_unknownOrder w htype (orderOfCode_eq_none _ horder)]
    exact runCode_reject (.command w) _ s hreject

end Sys2Proof.Machine
end

section
/-!
SUPPORT. A request for this unit in its RTU frame (spec/30_encoding.md R49; spec/45_rtu.md R107, R108): O49.
-/
namespace Sys2Proof.Machine

/-- The frame of a request PDU for a unit decodes on that unit to the request's fields (R108). -/
theorem rtuOutputs_rtuFrame_requestPdu (unitId : Byte) (f : FunctionCode) (start qty : Word) :
    rtuOutputs unitId (rtuFrame unitId (requestPdu f start qty)) =
      { okOutputs with
          uid := some unitId, fc := some (byteOfFunction f), start := some start, qty := some qty } := by
  simp [rtuOutputs, rtuFrame, requestPdu, be16Bytes, le16Bytes, be16At, le16At, slice, Config.rtuReqLen]

/-- Settles O49: the presented bytes are the request's RTU frame. -/
theorem rtuRequestDecodes : Obligations.RtuRequestDecodes := by
  rintro s f start qty head rfl hdin
  have hframe : s.inp.din = rtuFrame s.unitId (requestPdu f start qty) := hdin
  have hexec : exec .rtuDecode s = emit s (rtuOutputs s.unitId s.inp.din) := rfl
  rw [hexec, hframe, rtuOutputs_rtuFrame_requestPdu]
  rfl

end Sys2Proof.Machine
end

section
/-!
SUPPORT. The CRC function (spec/41_crc.md R61, R67, R68): a shift is injective because the bit it drops comes back as
the top bit of what it leaves, and shifts that drop zeros only are a plain right shift. O20, O27 and O28.
-/
namespace Sys2Proof.Machine

/-! ### One shift -/

theorem crcShift_eq_xor (a : Word) :
    crcShift a = (a >>> 1) ^^^ if a.getLsbD 0 then Config.crcPolyReflected else 0#16 := by
  unfold crcShift
  split <;> simp

/-- The dropped bit decides whether the polynomial, which has the top bit, goes into a word that does not. -/
theorem crcShift_getLsbD_top (a : Word) : (crcShift a).getLsbD 15 = a.getLsbD 0 := by
  rw [crcShift_eq_xor]
  cases a.getLsbD 0 <;> simp [Config.crcPolyReflected]

/-- A word is its lowest bit and the bits above it. -/
theorem eq_of_lowBit_of_ushiftRight_one (a b : Word) (hbit : a.getLsbD 0 = b.getLsbD 0) (hrest : a >>> 1 = b >>> 1) :
    a = b := by
  apply BitVec.eq_of_getLsbD_eq
  intro i _
  cases i with
  | zero => exact hbit
  | succ i => simpa [Nat.add_comm 1] using congrArg (·.getLsbD i) hrest

theorem crcShift_injective : Function.Injective crcShift := by
  intro a b h
  have hbit : a.getLsbD 0 = b.getLsbD 0 := by rw [← crcShift_getLsbD_top, h, crcShift_getLsbD_top]
  rw [crcShift_eq_xor, crcShift_eq_xor, hbit] at h
  exact eq_of_lowBit_of_ushiftRight_one a b hbit ((BitVec.xor_left_inj _).1 h)

/-! ### One byte -/

theorem crcStep_eq_iterate (a : Word) (b : Byte) : crcStep a b = crcShift^[8] (a ^^^ b.setWidth 16) := rfl

theorem crcStep_injective (b : Byte) : Function.Injective fun a : Word => crcStep a b := fun _ _ h =>
  (BitVec.xor_left_inj _).1 (crcShift_injective.iterate 8 h)

/-- Settles O28: the shifts are injective, so a step is, and there are finitely many accumulators. -/
theorem crcStepIsBijective : Obligations.CrcStepIsBijective := fun b =>
  Finite.injective_iff_bijective.1 (crcStep_injective b)

/-- Settles O20: the statement's shift is `crcShift` with the constant of R6 written out. -/
theorem crcFunctionFollowsRule : Obligations.CrcFunctionFollowsRule :=
  ⟨crcStep_eq_iterate, rfl, fun bytes b => crc16_append bytes [b]⟩

/-! ### The residue (R67) -/

theorem crcFrom_injective (bytes : List Byte) : Function.Injective fun a : Word => crcFrom a bytes := by
  induction bytes with
  | nil => exact fun _ _ h => h
  | cons b rest ih => exact ih.comp (crcStep_injective b)

/-- Shifts that drop zeros only move the word right. -/
theorem iterate_crcShift_of_low_zeros (n : Nat) (a : Word) (h : ∀ i < n, a.getLsbD i = false) :
    crcShift^[n] a = a >>> n := by
  induction n generalizing a with
  | zero => simp
  | succ n ih =>
    have hshift : crcShift a = a >>> 1 := if_neg (ne_true_of_eq_false (h 0 n.succ_pos))
    have hlow : ∀ i < n, (a >>> 1).getLsbD i = false := fun i hi => by simpa using h (1 + i) (by omega)
    rw [Function.iterate_succ_apply, hshift, ih _ hlow, ← BitVec.shiftRight_add, Nat.add_comm 1]

/-- The accumulator's own low byte clears the low byte, so the high byte moves down unchanged. -/
theorem crcStep_lowByte (a : Word) : crcStep a (lowByte a) = a >>> 8 := by
  rw [crcStep_eq_iterate, iterate_crcShift_of_low_zeros]
  · apply BitVec.eq_of_getLsbD_eq
    intro i _
    simp [lowByte]
  · intro i hi
    simp [lowByte, hi, show i < 16 by omega]

/-- What then remains is cleared by the high byte. -/
theorem crcStep_highByte (a : Word) : crcStep (a >>> 8) (highByte a) = 0#16 := by
  have hclear : (a >>> 8) ^^^ (highByte a).setWidth 16 = 0#16 := by
    apply BitVec.eq_of_getLsbD_eq
    intro i hi
    interval_cases i <;> simp [highByte]
  rw [crcStep_eq_iterate, hclear, iterate_crcShift_of_low_zeros 8 0#16 (by simp), BitVec.zero_ushiftRight]

/-- The accumulator's own bytes, low byte first, take it to zero. -/
theorem crcFrom_le16Bytes (a : Word) : crcFrom a (le16Bytes a) = 0#16 := by
  rw [le16Bytes, crcFrom_cons, crcFrom_cons, crcFrom_nil, crcStep_lowByte, crcStep_highByte]

/-- Two bytes take no other accumulator to zero. -/
theorem crcFrom_pair_eq_zero (a : Word) (lo hi : Byte) : crcFrom a [lo, hi] = 0#16 ↔ a = wordOfBytes hi lo := by
  have hres : crcFrom (wordOfBytes hi lo) [lo, hi] = 0#16 := by
    simpa [le16Bytes] using crcFrom_le16Bytes (wordOfBytes hi lo)
  constructor
  · exact fun h => crcFrom_injective [lo, hi] (h.trans hres.symm)
  · rintro rfl
    exact hres

theorem exists_append_pair (bytes : List Byte) (h : 2 ≤ bytes.length) : ∃ body lo hi, bytes = body ++ [lo, hi] := by
  obtain ⟨lo, hi, hpair⟩ := List.length_eq_two.1 (show (bytes.drop (bytes.length - 2)).length = 2 by simp; omega)
  exact ⟨bytes.take (bytes.length - 2), lo, hi, by rw [← hpair, List.take_append_drop]⟩

/-- A sequence of two bytes or more matches exactly when the CRC of all of it is zero (R67). -/
theorem trailerMatches_iff_crc16_eq_zero (bytes : List Byte) (h : 2 ≤ bytes.length) :
    trailerMatches bytes = true ↔ crc16 bytes = 0#16 := by
  obtain ⟨body, lo, hi, rfl⟩ := exists_append_pair bytes h
  rw [trailerMatches_append, beq_iff_eq, crc16_append, crcFrom_pair_eq_zero]

/-- Settles O27: the accumulator's own bytes clear it, and steps being injective nothing else does. -/
theorem crcResidueLaw : Obligations.CrcResidueLaw := by
  constructor
  · intro bytes
    rw [crc16_append, crcFrom_le16Bytes]
  · intro s hlen
    refine ⟨_, exec_eq_emit_commandOutputs .crcCheck s, ?_⟩
    simpa [commandOutputs] using trailerMatches_iff_crc16_eq_zero s.inp.din hlen

end Sys2Proof.Machine
end

section
/-!
SUPPORT. The five CRC commands (spec/41_crc.md R62 to R66): O21 to O25.
-/
namespace Sys2Proof.Machine

/-- Settles O21. -/
theorem crcInitResult : Obligations.CrcInitResult := ⟨rfl, exec_eq_emit_commandOutputs .crcInit⟩

/-- Settles O22. -/
theorem crcUpdateResult : Obligations.CrcUpdateResult := fun s b =>
  ⟨by simp [encode, mkCommand], exec_eq_emit_commandOutputs (.crcUpdate b) s⟩

/-- Settles O23. -/
theorem crcReadResult : Obligations.CrcReadResult := ⟨rfl, exec_eq_emit_commandOutputs .crcRead⟩

/-- Settles O24. -/
theorem crcOneShotResult : Obligations.CrcOneShotResult := ⟨rfl, exec_eq_emit_commandOutputs .crc16⟩

theorem exec_crcCheck (s : State) :
    exec .crcCheck s = emit s { okOutputs with matched := some (trailerMatches s.inp.din) } :=
  exec_eq_emit_commandOutputs .crcCheck s

theorem wordOfBytes_toNat (hi lo : Byte) : (wordOfBytes hi lo).toNat = lo.toNat + 256 * hi.toNat := by
  have hhigh : (hi.setWidth 16 <<< 8).toNat = hi.toNat <<< 8 := by
    simp only [BitVec.toNat_shiftLeft, BitVec.toNat_setWidth, Nat.shiftLeft_eq]
    omega
  have hlow : (lo.setWidth 16).toNat = lo.toNat := by
    rw [BitVec.toNat_setWidth]
    omega
  rw [wordOfBytes, BitVec.toNat_or, hhigh, hlow, ← Nat.shiftLeft_add_eq_or_of_lt lo.isLt, Nat.shiftLeft_eq]
  omega

/-- The trailer's bytes are compared as the number `lo + 256 * hi` (R66). -/
theorem trailerMatches_append_eq_decide (body : List Byte) (lo hi : Byte) :
    trailerMatches (body ++ [lo, hi]) = decide ((crc16 body).toNat = lo.toNat + 256 * hi.toNat) := by
  rw [trailerMatches_append, ← wordOfBytes_toNat, beq_eq_decide, decide_eq_decide, BitVec.toNat_inj]

/-- Settles O25. -/
theorem crcCheckResult : Obligations.CrcCheckResult := by
  refine ⟨rfl, fun s hshort => ?_, fun s body lo hi hdin => ?_⟩
  · rw [exec_crcCheck, trailerMatches_short _ hshort]
    rfl
  · rw [exec_crcCheck, hdin, trailerMatches_append_eq_decide]
    rfl

end Sys2Proof.Machine
end

section
/-!
SUPPORT. Runs of presented commands, and the streaming CRC sequence of R57 (spec/41_crc.md R69): O26.
-/
namespace Sys2Proof.Machine

/-- A run goes on from the state its first step leads to. -/
theorem run_succ_of_step (M : Host.Core) (k : Nat) (s t : M.State) (h : M.step s = .next t) :
    M.run (k + 1) s = M.run k t := by
  rw [Host.Core.run, h]

/-- Out of reset a presented instruction is what the step runs, on its own ports (R31). -/
theorem step_presented (s : State) (i : Instr) (ports : Inputs) (rest : List HostEvent) (hreset : s.inReset = false)
    (hbox : s.inbox = presented i ports :: rest) : step s = exec i (presentPorts (popEvent s rest) ports) :=
  (stepRunsDecodedInstruction s _ (encode i) ports rest hreset hbox rfl).2 i (decodeOfEncodeIsIdentity i)

/-- The state after a CRC_READ that finds the value `a` in `CRC_ACC` and leaves `rest` in the inbox (R64). -/
def crcReadDone (s : State) (a : Word) (rest : List HostEvent) : State :=
  { s with crcAcc := a, inp := Inputs.idle, inbox := rest, out := { okOutputs with crc := some a } }

/-- CRC_UPDATE of each byte and then CRC_READ, from any accumulator: one step each. -/
theorem run_updates_read (bytes : List Byte) (rest : List HostEvent) (s : State) (hreset : s.inReset = false)
    (hbox : s.inbox =
      bytes.map (fun b => presented (.crcUpdate b) Inputs.idle) ++ presented .crcRead Inputs.idle :: rest) :
    Host.Core.run core (bytes.length + 1) s = .next (crcReadDone s (crcFrom s.crcAcc bytes) rest) := by
  induction bytes generalizing s with
  | nil => exact run_succ_of_step core 0 s _ (step_presented s .crcRead Inputs.idle rest hreset hbox)
  | cons b bytes ih =>
    have hstep := step_presented s (.crcUpdate b) Inputs.idle _ hreset hbox
    rw [exec_eq_emit_commandOutputs] at hstep
    exact (run_succ_of_step core (bytes.length + 1) s _ hstep).trans (ih _ hreset rfl)

/-- Settles O26: CRC_INIT sets the accumulator to the initial value of `crc16`, whatever it was. -/
theorem streamingCrcEqualsOneShot : Obligations.StreamingCrcEqualsOneShot := by
  intro s bytes rest hreset hbox
  have hbox' : s.inbox = presented .crcInit Inputs.idle ::
      (bytes.map (fun b => presented (.crcUpdate b) Inputs.idle) ++ presented .crcRead Inputs.idle :: rest) := by
    simpa [assemble] using hbox
  have hstep := step_presented s .crcInit Inputs.idle _ hreset hbox'
  rw [exec_eq_emit_commandOutputs] at hstep
  exact (run_succ_of_step core (bytes.length + 1) s _ hstep).trans (run_updates_read bytes rest _ hreset rfl)

end Sys2Proof.Machine
end

section
/-!
SUPPORT. The seven rows of ENCODE (spec/42_codec.md): what a command answers for each result of the conversion it
runs (R72, R75 to R84), and the values that no rounding touches: BOOL, integers, infinities and NaNs. O29, O30 and O33
to O36.
-/
namespace Sys2Proof.Machine

/-! ### What an ENCODE answers -/

/-- The four rows of ENCODE of Float32 are one command with the byte order as a parameter (R77 to R80). -/
theorem exec_encodeF32Instr (o : ByteOrder) (s : State) :
    exec (encodeF32Instr o) s = emit (afterDraw s) (f32Outputs o (nanOfDraw s.nanDraws) s.inp.value) := by
  cases o <;> rfl

theorem exec_encodeF32Instr_of_ok (o : ByteOrder) (s : State) (p : Binary32)
    (h : f32Of (nanOfDraw s.nanDraws) s.inp.value = .ok p) :
    exec (encodeF32Instr o) s = emit (afterDraw s) { okOutputs with words := some (permuteWords o p) } := by
  rw [exec_encodeF32Instr, f32Outputs, h]

theorem exec_encodeF32Instr_of_error (o : ByteOrder) (s : State) (e : Raised)
    (h : f32Of (nanOfDraw s.nanDraws) s.inp.value = .error e) :
    exec (encodeF32Instr o) s = emit (afterDraw s) (raisedOutputs e) := by
  rw [exec_encodeF32Instr, f32Outputs, h]

/-- The two integer rows run alike, whatever arg16 holds (R41, R81). -/
theorem exec_encodeI16 (i : Instr) (arg16 : Word) (s : State) (h : i = .encodeI16S arg16 ∨ i = .encodeI16U arg16) :
    exec i s = emit s (i16Outputs s.inp.value) := by
  rcases h with rfl | rfl <;> rfl

/-! ### The classes of values (R11) -/

/-- A value is finite when it is neither a NaN nor an infinity. -/
theorem finiteValue_iff (v : Binary64) : FiniteValue v ↔ isNaN v = false ∧ isInf v = false := by
  have hclass : (isNaN v || isInf v) = (exponentOf v == 2047) := by
    unfold isNaN isInf
    cases hfrac : fractionOf v == 0 <;> simp [bne, hfrac]
  rw [← Bool.or_eq_false_iff, hclass, beq_eq_false_iff_ne, FiniteValue, exponentOf, Ne, ← BitVec.toNat_inj]
  rfl

theorem afterDraw_of_not_isNaN (s : State) (h : isNaN s.inp.value = false) : afterDraw s = s := by
  simp [afterDraw, h]

theorem afterDraw_of_finiteValue (s : State) (h : FiniteValue s.inp.value) : afterDraw s = s :=
  afterDraw_of_not_isNaN s ((finiteValue_iff _).1 h).1

theorem afterDraw_of_isNaN (s : State) (h : isNaN s.inp.value = true) : afterDraw s = advanceDraws s := by
  simp [afterDraw, h]

/-! ### BOOL (R72) -/

/-- False are the two values whose bits below the sign are all zero. -/
theorem truthy_eq_false_iff (v : Binary64) :
    truthy v = false ↔ v = 0x0000000000000000#64 ∨ v = 0x8000000000000000#64 := by
  simp only [truthy, bne_eq_false_iff_eq, ← BitVec.toNat_inj, BitVec.extractLsb'_toNat]
  simp only [Nat.shiftRight_zero, Nat.reducePow, BitVec.toNat_ofNat, Nat.zero_mod, Nat.reduceMod]
  have := v.isLt
  omega

/-- Settles O29. -/
theorem encodeBoolResult : Obligations.EncodeBoolResult := by
  refine ⟨rfl, fun s arg16 => ?_⟩
  have hexec : exec (.encodeBool arg16) s =
      emit s { okOutputs with words := some [if truthy s.inp.value then 1#16 else 0#16] } := rfl
  rw [hexec]
  simp only [← truthy_eq_false_iff]
  cases truthy s.inp.value <;> rfl

/-! ### Byte orders (R76, R84) -/

/-- The inverse permutation undoes the permutation. -/
theorem unpermuteWords_permuteWords (o : ByteOrder) (p : Binary32) :
    ∃ w0 w1, permuteWords o p = [w0, w1] ∧ unpermuteWords o w0 w1 = be32Bytes p := by
  cases o <;> exact ⟨_, _, rfl, by simp [unpermuteWords, be32Bytes]⟩

/-- Settles O30. -/
theorem encodeFloat32WordOrder : Obligations.EncodeFloat32WordOrder := by
  rintro s o p b0 b1 b2 b3 hp rfl rfl rfl rfl
  rw [exec_encodeF32Instr_of_ok o s p hp, afterDraw_eq]
  simp only [afterDraw, apply_ite State.nanDraws, advanceDraws_nanDraws]
  cases o <;> rfl

/-- Settles O35. -/
theorem float32PermutationRoundTrip : Obligations.Float32PermutationRoundTrip := by
  intro s o p hp
  obtain ⟨w0, w1, hwords, hbytes⟩ := unpermuteWords_permuteWords o p
  refine ⟨_, w0, w1, exec_encodeF32Instr_of_ok o s p hp, congrArg some hwords, ?_⟩
  rw [← hbytes]
  cases o <;> rfl

/-! ### Integers (R81) -/

theorem magnitude_eq_exactMagnitude (v : Binary64) : magnitude v = exactMagnitude v := by
  unfold magnitude exactMagnitude significandOf scaleOf exponentOf fractionOf
  split <;> simp [*]

theorem i16Of_of_finiteValue (v : Binary64) (h : FiniteValue v) : i16Of v = .ok (BitVec.ofInt 16 (truncInt v)) := by
  obtain ⟨hnan, hinf⟩ := (finiteValue_iff v).1 h
  simp [i16Of, hnan, hinf]

theorem i16Of_of_not_finiteValue (v : Binary64) (h : ¬ FiniteValue v) :
    i16Of v = .error { code := .valueError, info := some (.value v) } :=
  if_pos (by simpa [or_iff_not_imp_left] using mt (finiteValue_iff v).2 h)

/-- `trunc` (R8) from the exact magnitude. -/
theorem truncInt_eq_exactMagnitude_div (v : Binary64) :
    truncInt v =
      if v.getLsbD 63 = true then -((exactMagnitude v / 2 ^ 1074 : Nat) : Int)
      else ((exactMagnitude v / 2 ^ 1074 : Nat) : Int) := by
  rw [truncInt, integerPart_eq_magnitude_div, magnitude_eq_exactMagnitude, signOf]

/-- Settles O36. -/
theorem encodeInt16Result : Obligations.EncodeInt16Result := by
  intro s arg16 i hi
  rw [exec_encodeI16 i arg16 s hi, i16Outputs]
  refine ⟨fun hfin => ?_, fun hfin => ?_⟩
  · rw [i16Of_of_finiteValue _ hfin, ← truncInt_eq_exactMagnitude_div]
    exact ⟨_, rfl, by rw [BitVec.toNat_ofInt]; omega⟩
  · rw [i16Of_of_not_finiteValue _ hfin]
    rfl

/-! ### Infinities and NaNs (R73, R74) -/

/-- Settles O33. -/
theorem encodeFloat32Infinities : Obligations.EncodeFloat32Infinities := by
  intro s o negative hv
  have hnan : isNaN s.inp.value = false := by rw [hv]; cases negative <;> decide
  have hok : f32Of (nanOfDraw s.nanDraws) s.inp.value = .ok (if negative then 0xFF800000#32 else 0x7F800000#32) := by
    have hinf : isInf s.inp.value = true := by rw [hv]; cases negative <;> decide
    rw [f32Of, hnan, hinf, hv]
    cases negative <;> exact congrArg Except.ok (by decide)
  rw [exec_encodeF32Instr_of_ok o s _ hok, afterDraw_of_not_isNaN s hnan]
  rfl

theorem isNaN32_iff_nanPattern (p : Binary32) : isNaN32 p = true ↔ NanPattern p := by
  simp [isNaN32, NanPattern]

/-- With the exponent field filled a pattern is a NaN when its fraction is not empty. -/
theorem nanPattern_or_fill (raw fill : Binary32) (hexp : fill.extractLsb' 23 8 = 0xFF#8)
    (hfrac : raw.extractLsb' 0 23 ||| fill.extractLsb' 0 23 ≠ 0#23) : NanPattern (raw ||| fill) := by
  rw [NanPattern, BitVec.extractLsb'_or, BitVec.extractLsb'_or, hexp]
  exact ⟨BitVec.or_allOnes, hfrac⟩

/-- Every draw is a NaN pattern, whatever raw bits supply it (R74). -/
theorem asNaN32_nanPattern (raw : Binary32) : NanPattern (asNaN32 raw) := by
  unfold asNaN32
  split
  next h => exact (isNaN32_iff_nanPattern raw).1 h
  split
  next hzero => exact nanPattern_or_fill raw _ (by decide) (by rw [hzero]; decide)
  next hfrac => exact nanPattern_or_fill raw _ (by decide) (by simpa using hfrac)

/-- Settles O34. -/
theorem encodeFloat32OfNan : Obligations.EncodeFloat32OfNan := by
  refine ⟨fun s o hv => ?_, fun p hp => asNaN32_of_isNaN32 p ((isNaN32_iff_nanPattern p).2 hp)⟩
  have hnan : isNaN s.inp.value = true := (isNaN_iff_nanValue _).2 hv
  have hok : f32Of (nanOfDraw s.nanDraws) s.inp.value = .ok (nanOfDraw s.nanDraws) := if_pos hnan
  refine ⟨nanOfDraw s.nanDraws, asNaN32_nanPattern _, ?_⟩
  rw [exec_encodeF32Instr_of_ok o s _ hok, afterDraw_of_isNaN s hnan]
  rfl

end Sys2Proof.Machine
end

section
/-!
SUPPORT. ENCODE of Float32 rounds to nearest, ties to even (spec/42_codec.md R73).

The magnitudes of the binary32 patterns, read as numbers of bits 30:0, grow strictly, and the step above a pattern
depends on its exponent field only. `roundedFields` is `e * 2^23 + r` where `r` is the value's magnitude rounded to a
multiple of `u = 2^(e + 925)`; every other pattern's magnitude is at least `u` away from `r * u`, but where `r * u` is a power of
two, and there the value's magnitude is not below it.
-/
namespace Sys2Proof.Machine

/-! ### The magnitudes of binary32 patterns (R11) -/

/-- A significand of 24 bits, or the 2^24 it rounds up to, over an exponent: the carry into the exponent field is the
right one. -/
theorem binary32Magnitude_add (e r : Nat) (hr : r ≤ 2 ^ 24) (hnormal : e ≠ 0 → 2 ^ 23 ≤ r) :
    binary32Magnitude (e * 2 ^ 23 + r) = r * 2 ^ (e + 925) := by
  have hcases : (e = 0 ∧ r < 2 ^ 23) ∨ (2 ^ 23 ≤ r ∧ r < 2 ^ 24) ∨ r = 2 ^ 24 := by omega
  unfold binary32Magnitude
  obtain ⟨rfl, hsub⟩ | ⟨hlow, hhigh⟩ | rfl := hcases
  · rw [Nat.zero_mul, Nat.zero_add, Nat.zero_add, if_pos (Nat.div_eq_of_lt hsub)]
  · have hdiv : (e * 2 ^ 23 + r) / 2 ^ 23 = e + 1 := by omega
    have hmod : 2 ^ 23 + (e * 2 ^ 23 + r) % 2 ^ 23 = r := by omega
    rw [hdiv, hmod, if_neg e.succ_ne_zero, Nat.add_sub_cancel]
  · have hdiv : (e * 2 ^ 23 + 2 ^ 24) / 2 ^ 23 = e + 2 := by omega
    have hmod : 2 ^ 23 + (e * 2 ^ 23 + 2 ^ 24) % 2 ^ 23 = 2 ^ 23 := by omega
    have hexp : e + 2 - 1 + 925 = e + 925 + 1 := by omega
    rw [hdiv, hmod, if_neg (e + 1).succ_ne_zero, hexp, Nat.pow_succ' (n := e + 925), ← Nat.mul_assoc]
    rfl

/-- The exponent and the significand of a pattern (R11), the hidden bit counted to the significand. -/
theorem exists_eq_add_of_fields (fields : Nat) :
    ∃ e r, fields = e * 2 ^ 23 + r ∧ r < 2 ^ 24 ∧ (e ≠ 0 → 2 ^ 23 ≤ r) ∧ e = fields / 2 ^ 23 - 1 := by
  refine ⟨fields / 2 ^ 23 - 1, fields - (fields / 2 ^ 23 - 1) * 2 ^ 23, ?_, ?_, ?_, rfl⟩ <;> omega

/-- The next pattern is one unit in the last place up. -/
theorem binary32Magnitude_succ (fields : Nat) :
    binary32Magnitude (fields + 1) = binary32Magnitude fields + 2 ^ (fields / 2 ^ 23 - 1 + 925) := by
  obtain ⟨e, r, hfields, hr, hnormal, he⟩ := exists_eq_add_of_fields fields
  rw [← he, hfields, Nat.add_assoc, binary32Magnitude_add e r hr.le hnormal,
    binary32Magnitude_add e (r + 1) hr fun h => (hnormal h).trans r.le_succ, Nat.succ_mul]

theorem binary32Magnitude_strictMono : StrictMono binary32Magnitude :=
  strictMono_nat_of_lt_succ fun fields => by
    rw [binary32Magnitude_succ]
    exact Nat.lt_add_of_pos_right (Nat.two_pow_pos _)

/-- A greater pattern is at least one unit in the last place up. -/
theorem binary32Magnitude_add_le (e r other : Nat) (hnormal : e ≠ 0 → 2 ^ 23 ≤ r) (h : e * 2 ^ 23 + r < other) :
    binary32Magnitude (e * 2 ^ 23 + r) + 2 ^ (e + 925) ≤ binary32Magnitude other := by
  have hexp : e + 925 ≤ (e * 2 ^ 23 + r) / 2 ^ 23 - 1 + 925 := by omega
  calc binary32Magnitude (e * 2 ^ 23 + r) + 2 ^ (e + 925)
      ≤ binary32Magnitude (e * 2 ^ 23 + r + 1) := by
        rw [binary32Magnitude_succ]
        exact Nat.add_le_add_left (Nat.pow_le_pow_right (by norm_num) hexp) _
    _ ≤ binary32Magnitude other := binary32Magnitude_strictMono.monotone h

/-- A smaller pattern is at least one unit in the last place down, unless the significand is the least one of its
exponent. -/
theorem binary32Magnitude_add_le_of_lt (e r other : Nat) (hnormal : e ≠ 0 → 2 ^ 23 < r)
    (h : other < e * 2 ^ 23 + r) :
    binary32Magnitude other + 2 ^ (e + 925) ≤ binary32Magnitude (e * 2 ^ 23 + r) := by
  have hpos : 1 ≤ r := by omega
  have hpred : e * 2 ^ 23 + r = e * 2 ^ 23 + (r - 1) + 1 := by omega
  calc binary32Magnitude other + 2 ^ (e + 925)
      ≤ binary32Magnitude (e * 2 ^ 23 + (r - 1)) + 2 ^ (e + 925) :=
        Nat.add_le_add_right (binary32Magnitude_strictMono.monotone (by omega)) _
    _ ≤ binary32Magnitude (e * 2 ^ 23 + r) :=
        binary32Magnitude_add_le e (r - 1) _ (fun he => by have := hnormal he; omega) (by omega)

/-! ### Patterns that no other is nearer than -/

/-- No midpoint of `fields` and another pattern lies strictly between `m` and `fields`, and `m` is such a midpoint only
when `fields` is even. -/
structure RoundsTo (m fields : Nat) : Prop where
  below : ∀ other < fields, binary32Magnitude other + binary32Magnitude fields ≤ 2 * m
  above : ∀ other, fields < other → 2 * m ≤ binary32Magnitude fields + binary32Magnitude other
  tie : ∀ other ≠ fields, binary32Magnitude other + binary32Magnitude fields = 2 * m → fields % 2 = 0

theorem nearestEven_of_roundsTo (m fields : Nat) (h : RoundsTo m fields) (hfin : fields < 0x7F800000) :
    NearestEven m fields := by
  refine ⟨hfin, fun other _ => ?_⟩
  unfold distance
  rcases Nat.lt_trichotomy other fields with hlt | rfl | hgt
  · have hbelow := h.below other hlt
    have hmono := binary32Magnitude_strictMono hlt
    exact ⟨by omega, fun heq => .inr (h.tie other hlt.ne (by omega))⟩
  · exact ⟨le_rfl, fun _ => .inl rfl⟩
  · have habove := h.above other hgt
    have hmono := binary32Magnitude_strictMono hgt
    exact ⟨by omega, fun heq => .inr (h.tie other hgt.ne' (by omega))⟩

/-- The overflow threshold of R73 is the midpoint of the largest finite pattern and the next one. -/
theorem binary32Magnitude_threshold :
    binary32Magnitude 0x7F7FFFFF + binary32Magnitude 0x7F800000 = 2 * ((2 ^ 128 - 2 ^ 103) * 2 ^ 1074) := by
  decide +kernel

/-- The midpoint itself rounds up, for the largest finite pattern is odd. -/
theorem infFields_le_iff_of_roundsTo (m fields : Nat) (h : RoundsTo m fields) :
    infFields ≤ fields ↔ (2 ^ 128 - 2 ^ 103) * 2 ^ 1074 ≤ m := by
  have hmid := binary32Magnitude_threshold
  generalize (2 ^ 128 - 2 ^ 103) * 2 ^ 1074 = threshold at hmid ⊢
  unfold infFields
  constructor
  · intro hle
    have hbelow := h.below 0x7F7FFFFF (by omega)
    have hmono := binary32Magnitude_strictMono.monotone hle
    omega
  · intro hm
    by_contra hlt
    have habove := h.above 0x7F800000 (by omega)
    have hmono := binary32Magnitude_strictMono.monotone (show fields ≤ 0x7F7FFFFF by omega)
    have heven := h.tie 0x7F800000 (by omega) (by omega)
    have hfields : binary32Magnitude fields = binary32Magnitude 0x7F7FFFFF := by omega
    have := binary32Magnitude_strictMono.injective hfields
    omega

/-! ### Rounding to a multiple -/

/-- `r` is `m / u` rounded to nearest, ties to even. -/
structure NearestMultiple (m u r : Nat) : Prop where
  lower : 2 * (r * u) ≤ 2 * m + u
  upper : 2 * m ≤ 2 * (r * u) + u
  tie : 2 * (r * u) = 2 * m + u ∨ 2 * m = 2 * (r * u) + u → r % 2 = 0

theorem nearestMultiple_roundShift (n q : Nat) : NearestMultiple n (2 ^ q) (roundShift n q) := by
  have hpos := Nat.two_pow_pos q
  have hdiv := Nat.div_add_mod' n (2 ^ q)
  have hrest := Nat.mod_lt n hpos
  simp only [roundShift]
  generalize 2 ^ q = u at *
  generalize n / u = floor at *
  generalize n % u = rest at *
  have hsucc := Nat.succ_mul floor u
  split_ifs
  · constructor <;> omega
  · constructor <;> rw [hsucc] <;> omega
  · constructor <;> omega
  · constructor <;> rw [hsucc] <;> omega

theorem nearestMultiple_mul (m u r c : Nat) (hc : 0 < c) (h : NearestMultiple m u r) :
    NearestMultiple (m * c) (u * c) r := by
  obtain ⟨hlower, hupper, htie⟩ := h
  have hlower' := Nat.mul_le_mul_right c hlower
  have hupper' := Nat.mul_le_mul_right c hupper
  refine ⟨by linarith, by linarith, fun heq => htie ?_⟩
  refine heq.imp (fun h => Nat.eq_of_mul_eq_mul_right hc ?_) fun h => Nat.eq_of_mul_eq_mul_right hc ?_ <;> linarith

/-- The cap on the right move of `roundedSignificand` does not change what it gives. -/
theorem roundShift_min_54 (m q : Nat) (hm : m < 2 ^ 53) : roundShift m (min q 54) = roundShift m q := by
  have hzero : ∀ n, 54 ≤ n → roundShift m n = 0 := fun n hn => by
    have hpow : 2 ^ 54 ≤ 2 ^ n := Nat.pow_le_pow_right (by norm_num) hn
    have hlt : m < 2 ^ n := by omega
    rw [roundShift, Nat.mod_eq_of_lt hlt, Nat.div_eq_of_lt hlt]
    exact if_pos (by omega)
  rcases Nat.le_total q 54 with h | h
  · rw [Nat.min_eq_left h]
  · rw [Nat.min_eq_right h, hzero 54 le_rfl, hzero q h]

/-- The rounded significand is the magnitude in units of its last place, rounded to nearest, ties to even. -/
theorem nearestMultiple_roundedSignificand (m k : Nat) (hm : m < 2 ^ 53) :
    NearestMultiple (m * 2 ^ k) (2 ^ lastPlace m k) (roundedSignificand m k) := by
  unfold roundedSignificand
  generalize lastPlace m k = l
  split
  next hle =>
    have hexact : m * 2 ^ (k - l) * 2 ^ l = m * 2 ^ k := by rw [Nat.mul_assoc, ← Nat.pow_add, Nat.sub_add_cancel hle]
    have hpos := Nat.two_pow_pos l
    constructor <;> rw [hexact] <;> omega
  next hlt =>
    have hsplit : 2 ^ l = 2 ^ (l - k) * 2 ^ k := by rw [← Nat.pow_add, Nat.sub_add_cancel (by omega)]
    rw [roundShift_min_54 m _ hm, hsplit]
    exact nearestMultiple_mul _ _ _ _ (Nat.two_pow_pos k) (nearestMultiple_roundShift m (l - k))

/-! ### The last place (R73) -/

/-- The last place has at most 24 bits above it. -/
theorem magnitude_lt_lastPlace (m k : Nat) : m * 2 ^ k < 2 ^ 24 * 2 ^ lastPlace m k := by
  have hexp : m.log2 + 1 + k ≤ 24 + lastPlace m k := by unfold lastPlace; omega
  calc m * 2 ^ k
      < 2 ^ (m.log2 + 1) * 2 ^ k := Nat.mul_lt_mul_of_pos_right Nat.lt_log2_self (Nat.two_pow_pos k)
    _ ≤ 2 ^ 24 * 2 ^ lastPlace m k := by
        rw [← Nat.pow_add, ← Nat.pow_add]
        exact Nat.pow_le_pow_right (by norm_num) hexp

/-- Above the subnormals it has exactly 24 bits, the leading one among them. -/
theorem le_magnitude_of_lastPlace (m k : Nat) (hm : m ≠ 0) (h : 925 < lastPlace m k) :
    2 ^ 23 * 2 ^ lastPlace m k ≤ m * 2 ^ k := by
  have hexp : 23 + lastPlace m k = m.log2 + k := by unfold lastPlace at *; omega
  rw [← Nat.pow_add, hexp, Nat.pow_add]
  exact Nat.mul_le_mul_right _ (Nat.log2_self_le hm)

/-! ### `round_RNE_32` (R73) -/

/-- A magnitude between `2^23` and `2^24` units, or below where the units are the subnormals', rounds to the pattern its
rounded significand makes. -/
theorem roundsTo_of_nearestMultiple (m e r : Nat) (h : NearestMultiple m (2 ^ (e + 925)) r)
    (hhigh : m < 2 ^ 24 * 2 ^ (e + 925)) (hlow : e ≠ 0 → 2 ^ 23 * 2 ^ (e + 925) ≤ m) :
    RoundsTo m (e * 2 ^ 23 + r) := by
  obtain ⟨hlower, hupper, htie⟩ := h
  have hpos := Nat.two_pow_pos (e + 925)
  have hr : r ≤ 2 ^ 24 := by
    generalize 2 ^ (e + 925) = u at *
    nlinarith
  have hnormal : e ≠ 0 → 2 ^ 23 ≤ r := fun he => by
    have hleast := hlow he
    generalize 2 ^ (e + 925) = u at *
    nlinarith
  have hmag := binary32Magnitude_add e r hr hnormal
  have heven : r % 2 = 0 → (e * 2 ^ 23 + r) % 2 = 0 := by omega
  have habove : ∀ other, e * 2 ^ 23 + r < other → r * 2 ^ (e + 925) + 2 ^ (e + 925) ≤ binary32Magnitude other :=
    fun other hgt => hmag ▸ binary32Magnitude_add_le e r other hnormal hgt
  have hbelow : ∀ other < e * 2 ^ 23 + r,
      binary32Magnitude other + 2 ^ (e + 925) ≤ r * 2 ^ (e + 925) ∨
        binary32Magnitude other < r * 2 ^ (e + 925) ∧ r * 2 ^ (e + 925) ≤ m := fun other hlt => by
    by_cases hleast : e ≠ 0 ∧ r = 2 ^ 23
    · obtain ⟨he, rfl⟩ := hleast
      exact .inr ⟨hmag ▸ binary32Magnitude_strictMono hlt, hlow he⟩
    · exact .inl (hmag ▸ binary32Magnitude_add_le_of_lt e r other (by omega) hlt)
  constructor
  · intro other hlt
    have := hbelow other hlt
    omega
  · intro other hgt
    have := habove other hgt
    omega
  · intro other hne hmid
    rcases Nat.lt_or_gt_of_ne hne with hlt | hgt
    · have := hbelow other hlt
      exact heven (htie (.inl (by omega)))
    · have := habove other hgt
      exact heven (htie (.inr (by omega)))

/-- `roundedFields` is the rounding of the exact magnitude; a zero significand stands on the least scale only. -/
theorem roundsTo_roundedFields (v : Binary64) : RoundsTo (exactMagnitude v) (roundedFields v) := by
  unfold roundedFields
  rw [← magnitude_eq_exactMagnitude, magnitude]
  have hsubnormal : significandOf v = 0 → scaleOf v = 0 := by unfold significandOf scaleOf; split <;> omega
  have hround := nearestMultiple_roundedSignificand _ (scaleOf v) (significandOf_lt v)
  have hhigh := magnitude_lt_lastPlace (significandOf v) (scaleOf v)
  have hlow := le_magnitude_of_lastPlace (significandOf v) (scaleOf v)
  have hplace : 925 ≤ lastPlace (significandOf v) (scaleOf v) := Nat.le_max_left _ _
  obtain ⟨e, he⟩ := Nat.exists_eq_add_of_le' hplace
  rw [he] at hround hhigh hlow ⊢
  rw [Nat.add_sub_cancel]
  refine roundsTo_of_nearestMultiple _ e _ hround hhigh fun hne => hlow (fun hzero => hne ?_) (by omega)
  rw [hzero, hsubnormal hzero] at he
  simpa [lastPlace] using he

end Sys2Proof.Machine
end

section
/-!
SUPPORT. ENCODE of Float32 on a finite value (spec/42_codec.md R73, R77 to R80): the overflow threshold and the pattern
put on the port. O31 and O32.
-/
namespace Sys2Proof.Machine

theorem f32Of_of_finiteValue (draw : Binary32) (v : Binary64) (h : FiniteValue v) :
    f32Of draw v =
      if infFields ≤ roundedFields v then .error { code := .valueError, info := some (.value v) }
      else .ok (binary32Of (signOf v) (roundedFields v)) := by
  obtain ⟨hnan, hinf⟩ := (finiteValue_iff v).1 h
  simp [f32Of, hnan, hinf]

theorem exec_encodeF32Instr_of_overflow (o : ByteOrder) (s : State) (h : FiniteValue s.inp.value)
    (hover : infFields ≤ roundedFields s.inp.value) :
    exec (encodeF32Instr o) s = .next { s with out := raisedWith .valueError (some (.value s.inp.value)) } := by
  have herror := (f32Of_of_finiteValue (nanOfDraw s.nanDraws) _ h).trans (if_pos hover)
  rw [exec_encodeF32Instr_of_error o s _ herror, afterDraw_of_finiteValue s h]
  rfl

theorem exec_encodeF32Instr_of_fits (o : ByteOrder) (s : State) (h : FiniteValue s.inp.value)
    (hfits : ¬ infFields ≤ roundedFields s.inp.value) :
    exec (encodeF32Instr o) s =
      .next (setOut s { okOutputs with
        words := some (permuteWords o (binary32Of (signOf s.inp.value) (roundedFields s.inp.value))) }) := by
  have hok := (f32Of_of_finiteValue (nanOfDraw s.nanDraws) _ h).trans (if_neg hfits)
  rw [exec_encodeF32Instr_of_ok o s _ hok, afterDraw_of_finiteValue s h]
  rfl

/-- Settles O32: the overflow test of `f32Of` is the threshold test by `infFields_le_iff_of_roundsTo`. -/
theorem encodeFloat32OverflowThreshold : Obligations.EncodeFloat32OverflowThreshold := by
  intro s o hfin
  rw [← infFields_le_iff_of_roundsTo _ _ (roundsTo_roundedFields s.inp.value)]
  refine ⟨fun hexec => ?_, exec_encodeF32Instr_of_overflow o s hfin⟩
  by_contra hfits
  rw [exec_encodeF32Instr_of_fits o s hfin hfits, Host.Outcome.next.injEq] at hexec
  exact absurd (congrArg (·.out.outcome) hexec) (by simp [raisedWith])

theorem binary32Of_getLsbD (sign : Bool) (fields i : Nat) (hi : i < 32) :
    (binary32Of sign fields).getLsbD i = (i == 31 && sign || fields.testBit i) := by
  have hbit : i < 31 ∨ i = 31 := by omega
  rw [binary32Of, BitVec.getLsbD_or, BitVec.getLsbD_shiftLeft, BitVec.getLsbD_ofNat, BitVec.getLsbD_setWidth]
  obtain hlow | rfl := hbit
  · simp [hlow, hi, hlow.ne]
  · simp

theorem binary32Of_getLsbD_sign (sign : Bool) (fields : Nat) (h : fields < 2 ^ 31) :
    (binary32Of sign fields).getLsbD 31 = sign := by
  simp only [binary32Of_getLsbD sign fields 31 (by norm_num), Nat.testBit_lt_two_pow h, beq_self_eq_true,
    Bool.true_and, Bool.or_false]

theorem binary32Of_extractLsb'_fields (sign : Bool) (fields : Nat) (h : fields < 2 ^ 31) :
    ((binary32Of sign fields).extractLsb' 0 31).toNat = fields := by
  have hbits : (binary32Of sign fields).extractLsb' 0 31 = BitVec.ofNat 31 fields := by
    apply BitVec.eq_of_getLsbD_eq
    intro i hi
    rw [BitVec.getLsbD_extractLsb', Nat.zero_add, binary32Of_getLsbD _ _ _ (by omega), BitVec.getLsbD_ofNat]
    simp [hi, hi.ne]
  rw [hbits, BitVec.toNat_ofNat, Nat.mod_eq_of_lt h]

/-- Settles O31: below the threshold the pattern's fields are `roundedFields`, which no other pattern is nearer than. -/
theorem encodeFloat32RoundsToNearestEven : Obligations.EncodeFloat32RoundsToNearestEven := by
  intro s o hfin hsmall
  have hrounds := roundsTo_roundedFields s.inp.value
  have hfits : ¬ infFields ≤ roundedFields s.inp.value :=
    mt (infFields_le_iff_of_roundsTo _ _ hrounds).1 hsmall.not_ge
  have hlt : roundedFields s.inp.value < 0x7F800000 := Nat.lt_of_not_le hfits
  have hfields : roundedFields s.inp.value < 2 ^ 31 := by omega
  refine ⟨_, exec_encodeF32Instr_of_fits o s hfin hfits, binary32Of_getLsbD_sign _ _ hfields, ?_⟩
  rw [binary32Of_extractLsb'_fields _ _ hfields]
  exact nearestEven_of_roundsTo _ _ hrounds hlt

end Sys2Proof.Machine
end

section
/-!
SUPPORT. The bytes of a response payload (spec/43_pdu.md R87 to R89): which bit of PACK_BITS and which byte of
PACK_WORDS a result goes to. O37 to O39.
-/
namespace Sys2Proof.Machine

/-! ### PACK_BITS (R87, R88) -/

/-- The bit of a result that exists is its coerced bit, and a position with no result packs as 0. -/
theorem resultBit_eq_coerceBit_getD (mode : Config.BitCoerce) (rs : List Word) (i : Nat) :
    resultBit mode rs i = (decide (i < rs.length) && coerceBit mode (rs.getD i 0#16)) := by
  by_cases hi : i < rs.length <;> simp [resultBit, hi]

theorem one_shiftLeft_getLsbD (n k : Nat) (hk : k < 8) : (1#8 <<< n).getLsbD k = decide (k = n) := by
  rw [BitVec.getLsbD_shiftLeft, BitVec.getLsbD_one, Bool.eq_iff_iff]
  simp only [Bool.and_eq_true, Bool.not_eq_true', decide_eq_true_eq, decide_eq_false_iff_not]
  omega

/-- Setting bit `j` for each `j < n` with `b j` sets those bits and no others. -/
theorem foldl_setBit_getLsbD (b : Nat → Bool) (n k : Nat) (hk : k < 8) :
    ((List.range n).foldl (fun acc j => if b j then acc ||| (1#8 <<< j) else acc) 0#8).getLsbD k =
      (decide (k < n) && b k) := by
  induction n with
  | zero => simp
  | succ n ih =>
    rw [List.range_succ, List.foldl_append, List.foldl_cons, List.foldl_nil, apply_ite (BitVec.getLsbD · k),
      BitVec.getLsbD_or, ih, one_shiftLeft_getLsbD n k hk]
    by_cases hkn : k = n
    · simp [hkn]
    · have hlt : k < n + 1 ↔ k < n := by omega
      simp [hkn, hlt]

theorem packedByte_getLsbD (mode : Config.BitCoerce) (rs : List Word) (j k : Nat) (hk : k < 8) :
    (packedByte mode rs j).getLsbD k = resultBit mode rs (8 * j + k) := by
  rw [packedByte, foldl_setBit_getLsbD _ 8 k hk, decide_eq_true hk, Bool.true_and]

theorem packBits_getD (mode : Config.BitCoerce) (rs : List Word) (j : Nat) (hj : j < (packBits mode rs).length) :
    (packBits mode rs).getD j 0#8 = packedByte mode rs j := by
  rw [packBits_length] at hj
  simp [packBits, hj]

/-- Result `i` stands at byte `i div 8`, bit `i mod 8`. -/
theorem packBits_getLsbD (mode : Config.BitCoerce) (rs : List Word) (i : Nat) (hi : i < 8 * (packBits mode rs).length) :
    ((packBits mode rs).getD (i / 8) 0#8).getLsbD (i % 8) = resultBit mode rs i := by
  rw [packBits_getD mode rs _ (by omega), packedByte_getLsbD mode rs _ _ (Nat.mod_lt i (by norm_num)), Nat.div_add_mod]

/-- Settles O37. -/
theorem packBitsResult : Obligations.PackBitsResult := by
  refine ⟨rfl, fun s => ⟨packBits s.params.bitCoerce s.inp.results, exec_eq_emit_commandOutputs .packBits s,
    packBits_length _ _, fun i hi => ?_⟩⟩
  rw [packBits_getLsbD _ _ i hi, resultBit_eq_coerceBit_getD]
  cases s.params.bitCoerce with
  | nonzero => simp [coerceBit, bne, beq_eq_decide]
  | lsb => rfl

/-- Two settings that coerce every result alike pack the same bytes. -/
theorem packBits_congr (m₁ m₂ : Config.BitCoerce) (rs : List Word) (h : ∀ r ∈ rs, coerceBit m₁ r = coerceBit m₂ r) :
    packBits m₁ rs = packBits m₂ rs := by
  have hbit : resultBit m₁ rs = resultBit m₂ rs := by
    funext i
    unfold resultBit
    split
    next r hr => exact h r (List.mem_of_getElem? hr)
    next => rfl
  unfold packBits packedByte
  rw [hbit]

/-- Settles O38: on 0 and 1 the coercions themselves agree. -/
theorem bitCoercionsAgreeOnBits : Obligations.BitCoercionsAgreeOnBits := by
  refine fun rs hrs => packBits_congr _ _ rs fun r hr => ?_
  obtain rfl | rfl := hrs r hr
  · rfl
  · rfl

/-! ### PACK_WORDS (R89) -/

theorem packWords_getD (rs : List Word) (i : Nat) (hi : i < rs.length) :
    (packWords rs).getD (2 * i) 0#8 = highByte (rs.getD i 0#16) ∧
      (packWords rs).getD (2 * i + 1) 0#8 = lowByte (rs.getD i 0#16) := by
  induction rs generalizing i with
  | nil => simp at hi
  | cons r rs ih =>
    cases i with
    | zero => exact ⟨rfl, rfl⟩
    | succ i => exact ih i (Nat.lt_of_succ_lt_succ hi)

/-- Settles O39. -/
theorem packWordsResult : Obligations.PackWordsResult :=
  ⟨rfl, fun s => ⟨packWords s.inp.results, exec_eq_emit_commandOutputs .packWords s, packWords_length _,
    packWords_getD s.inp.results⟩⟩

end Sys2Proof.Machine
end

section
/-!
SUPPORT. Everything a response PDU can be (spec/43_pdu.md R90, R95), in the words of the statements (`ResponseFits`,
`payloadLength`), and the commands that put it on `dout` alone: O40 to O42.
-/
namespace Sys2Proof.Machine

/-! ### The limits of the byte count (R86, R95) -/

theorem payload_length_eq_payloadLength (mode : Config.BitCoerce) (f : FunctionCode) (rs : List Word) :
    (payload mode f rs).length = payloadLength f rs.length := by
  rw [payload_length]
  cases f <;> rfl

/-- The results fit when their payload has at most 255 bytes. -/
theorem responseFits_iff_payloadLength_le (f : FunctionCode) (q : Nat) : ResponseFits f q ↔ payloadLength f q ≤ 255 := by
  cases f <;> rfl

/-- A byte is the code of one of the four functions or it is none of 1 to 4 (R52). -/
theorem functionOfByte_eq_none_iff_not_mem (fc : Byte) :
    functionOfByte fc = none ↔ fc ∉ [0x01#8, 0x02#8, 0x03#8, 0x04#8] := by
  simp [functionOfByte_eq_none]

/-! ### The response PDU (R90) -/

/-- The response PDU of a function code whose results fit: the code, the byte count and the payload (R46). -/
def responseBytes (mode : Config.BitCoerce) (f : FunctionCode) (rs : List Word) : List Byte :=
  [byteOfFunction f, BitVec.ofNat 8 (payload mode f rs).length] ++ payload mode f rs

theorem responseBytes_length (mode : Config.BitCoerce) (f : FunctionCode) (rs : List Word) :
    (responseBytes mode f rs).length = 2 + payloadLength f rs.length := by
  rw [responseBytes, List.length_append, payload_length_eq_payloadLength]
  rfl

theorem responsePdu_of_fits (mode : Config.BitCoerce) (f : FunctionCode) (rs : List Word)
    (h : ResponseFits f rs.length) : responsePdu mode (byteOfFunction f) rs = .ok (responseBytes mode f rs) := by
  rw [responseFits_iff_payloadLength_le, ← payload_length_eq_payloadLength mode] at h
  exact responsePdu_fits mode f rs h

theorem responsePdu_of_not_fits (mode : Config.BitCoerce) (f : FunctionCode) (rs : List Word)
    (h : ¬ ResponseFits f rs.length) :
    responsePdu mode (byteOfFunction f) rs =
      .error { code := .lengthOverflow, info := some (.length (payloadLength f rs.length)) } := by
  rw [responseFits_iff_payloadLength_le, ← payload_length_eq_payloadLength mode, not_le] at h
  rw [responsePdu_overflow mode f rs h, payload_length_eq_payloadLength]

/-- The response build has three ends: a PDU, LENGTH_OVERFLOW and UNSUPPORTED_FC (R90). -/
theorem responsePdu_cases (mode : Config.BitCoerce) (fc : Byte) (rs : List Word) :
    (∃ f, fc = byteOfFunction f ∧ ResponseFits f rs.length ∧ responsePdu mode fc rs = .ok (responseBytes mode f rs)) ∨
      (∃ f, fc = byteOfFunction f ∧ ¬ ResponseFits f rs.length ∧
        responsePdu mode fc rs =
          .error { code := .lengthOverflow, info := some (.length (payloadLength f rs.length)) }) ∨
      (functionOfByte fc = none ∧ responsePdu mode fc rs = .error { code := .unsupportedFc, info := some (.fc fc) }) := by
  cases hfc : functionOfByte fc with
  | none => exact .inr (.inr ⟨rfl, responsePdu_unsupported mode fc rs hfc⟩)
  | some f =>
    obtain rfl := (functionOfByte_eq_some fc f).1 hfc
    by_cases hfits : ResponseFits f rs.length
    · exact .inl ⟨f, rfl, hfits, responsePdu_of_fits mode f rs hfits⟩
    · exact .inr (.inl ⟨f, rfl, hfits, responsePdu_of_not_fits mode f rs hfits⟩)

/-- A response can be built exactly for a function code whose results fit (R95). -/
theorem responsePdu_eq_ok_iff (mode : Config.BitCoerce) (fc : Byte) (rs : List Word) (pdu : List Byte) :
    responsePdu mode fc rs = .ok pdu ↔
      ∃ f, fc = byteOfFunction f ∧ ResponseFits f rs.length ∧ pdu = responseBytes mode f rs := by
  constructor
  · intro h
    obtain ⟨f, hfc, hfits, hok⟩ | ⟨_, _, _, herror⟩ | ⟨_, herror⟩ := responsePdu_cases mode fc rs
    · exact ⟨f, hfc, hfits, Except.ok.inj (h ▸ hok)⟩
    · simp [h] at herror
    · simp [h] at herror
  · rintro ⟨f, rfl, hfits, rfl⟩
    exact responsePdu_of_fits mode f rs hfits

theorem responsePdu_error_code_ne_ok (mode : Config.BitCoerce) (fc : Byte) (rs : List Word) (e : Raised)
    (h : responsePdu mode fc rs = .error e) : e.code ≠ .ok := by
  obtain ⟨_, _, _, hok⟩ | ⟨_, _, _, herror⟩ | ⟨_, herror⟩ := responsePdu_cases mode fc rs
  · simp [h] at hok
  · obtain rfl := Except.error.inj (h ▸ herror)
    exact nofun
  · obtain rfl := Except.error.inj (h ▸ herror)
    exact nofun

/-! ### PDU_RESPONSE -/

theorem exec_pduResponse (fc : Byte) (s : State) :
    exec (.pduResponse fc) s = emit s (doutOutputs (responsePdu s.params.bitCoerce fc s.inp.results)) :=
  exec_eq_emit_commandOutputs (.pduResponse fc) s

theorem exec_pduResponse_of_fits (f : FunctionCode) (s : State) (h : ResponseFits f s.inp.results.length) :
    exec (.pduResponse (byteOfFunction f)) s =
      emit s { okOutputs with dout := some (responseBytes s.params.bitCoerce f s.inp.results) } := by
  rw [exec_pduResponse, responsePdu_of_fits _ f _ h, doutOutputs_ok]

/-- The packing command of a function code outputs its payload (R86). -/
theorem exec_packingCommand (f : FunctionCode) (s : State) :
    exec (if f = .readCoils ∨ f = .readDiscreteInputs then .packBits else .packWords) s =
      emit s { okOutputs with dout := some (payload s.params.bitCoerce f s.inp.results) } := by
  cases f <;> rfl

/-- Settles O40. -/
theorem pduResponseResult : Obligations.PduResponseResult := by
  refine ⟨fun s f hfits => ?_, fun s f hfits => ?_, fun s fc hfc => ?_⟩
  · exact ⟨_, _, exec_packingCommand f s, rfl, payload_length_eq_payloadLength _ f _,
      exec_pduResponse_of_fits f s hfits⟩
  · rw [exec_pduResponse, responsePdu_of_not_fits _ f _ hfits]
    rfl
  · rw [exec_pduResponse, responsePdu_unsupported _ fc _ ((functionOfByte_eq_none_iff_not_mem fc).2 hfc)]
    rfl

theorem doutOutputs_dout_eq_some (r : Except Raised (List Byte)) (bytes : List Byte) :
    (doutOutputs r).dout = some bytes ↔ r = .ok bytes := by
  cases r <;> simp

theorem doutOutputs_responsePdu_outcome_eq_ok (mode : Config.BitCoerce) (fc : Byte) (rs : List Word) :
    (doutOutputs (responsePdu mode fc rs)).outcome = some .ok ↔ ∃ pdu, responsePdu mode fc rs = .ok pdu := by
  cases hr : responsePdu mode fc rs with
  | ok pdu => simp
  | error e => simpa using responsePdu_error_code_ne_ok mode fc rs e hr

theorem exists_functionCode (P : FunctionCode → Prop) :
    (∃ f, P f) ↔
      P .readCoils ∨ P .readDiscreteInputs ∨ P .readHoldingRegisters ∨ P .readInputRegisters := by
  constructor
  · rintro ⟨f, hf⟩
    cases f <;> simp [hf]
  · rintro (hf | hf | hf | hf) <;> exact ⟨_, hf⟩

/-- The limits of R95: 2040 bits or 127 words. -/
theorem exists_responseFits_iff (fc : Byte) (q : Nat) :
    (∃ f, fc = byteOfFunction f ∧ ResponseFits f q) ↔
      ((fc = 0x01#8 ∨ fc = 0x02#8) ∧ q ≤ 2040) ∨ ((fc = 0x03#8 ∨ fc = 0x04#8) ∧ q ≤ 127) := by
  have hbits : (q + 7) / 8 ≤ 255 ↔ q ≤ 2040 := by omega
  have hwords : 2 * q ≤ 255 ↔ q ≤ 127 := by omega
  simp only [exists_functionCode, ResponseFits, byteOfFunction, hbits, hwords, or_and_right, or_assoc]

/-- A response can be built exactly for codes 1 to 4 within the limits, whatever the coercion (R95). -/
theorem exists_responsePdu_eq_ok_iff (mode : Config.BitCoerce) (fc : Byte) (rs : List Word) :
    (∃ pdu, responsePdu mode fc rs = .ok pdu) ↔
      ((fc = 0x01#8 ∨ fc = 0x02#8) ∧ rs.length ≤ 2040) ∨ ((fc = 0x03#8 ∨ fc = 0x04#8) ∧ rs.length ≤ 127) := by
  rw [← exists_responseFits_iff]
  constructor
  · rintro ⟨pdu, hok⟩
    obtain ⟨f, hfc, hfits, _⟩ := (responsePdu_eq_ok_iff mode fc rs pdu).1 hok
    exact ⟨f, hfc, hfits⟩
  · rintro ⟨f, rfl, hfits⟩
    exact ⟨_, responsePdu_of_fits mode f rs hfits⟩

/-- The length of a response PDU (R95). -/
theorem length_of_responsePdu_eq_ok (mode : Config.BitCoerce) (fc : Byte) (rs : List Word) (pdu : List Byte)
    (h : responsePdu mode fc rs = .ok pdu) :
    ((fc = 0x01#8 ∨ fc = 0x02#8) ∧ pdu.length = 2 + (rs.length + 7) / 8) ∨
      ((fc = 0x03#8 ∨ fc = 0x04#8) ∧ pdu.length = 2 + 2 * rs.length) := by
  obtain ⟨f, rfl, _, rfl⟩ := (responsePdu_eq_ok_iff mode fc rs pdu).1 h
  rw [responseBytes_length]
  cases f with
  | readCoils | readDiscreteInputs => exact .inl ⟨by decide, rfl⟩
  | readHoldingRegisters | readInputRegisters => exact .inr ⟨by decide, rfl⟩

/-- Settles O41. -/
theorem responseLimits : Obligations.ResponseLimits := by
  intro s fc
  simp only [exec_pduResponse, emit_eq_next]
  refine ⟨?_, ?_⟩
  · rw [exists_eq_left, setOut_out, doutOutputs_responsePdu_outcome_eq_ok, exists_responsePdu_eq_ok_iff]
  · rintro t pdu rfl hdout
    exact length_of_responsePdu_eq_ok _ fc _ pdu ((doutOutputs_dout_eq_some _ pdu).1 hdout)

/-! ### The function-code rows (R91 to R94) -/

/-- The four rows are one command with the function code as a parameter. -/
theorem exec_requestInstr (f : FunctionCode) (start qty : Word) (s : State) :
    exec (requestInstr f start qty) s =
      emit s (requestOutputs s.params.bitCoerce f start qty s.inp.results) := by
  cases f <;> rfl

/-- Settles O42. -/
theorem requestRowsResult : Obligations.RequestRowsResult := by
  refine fun s f start qty => ⟨fun hfits => ?_, fun hfits => ?_⟩
  · refine ⟨_, _, exec_pduResponse_of_fits f s hfits, rfl, ?_⟩
    rw [exec_requestInstr, requestOutputs, responsePdu_of_fits _ f _ hfits]
    rfl
  · rw [exec_requestInstr, requestOutputs, responsePdu_of_not_fits _ f _ hfits]
    rfl

end Sys2Proof.Machine
end

section
/-!
SUPPORT. MBAP_DECODE (spec/44_mbap.md R97, R99, R100, R105): what it outputs for each case of its checks, and that a
complete frame is decided by its own bytes. O43, O44 and O45.
-/
namespace Sys2Proof.Machine

/-! ### Reading bytes of a sequence (R9) -/

theorem byteAt_append_left (xs ys : List Byte) (i : Nat) (h : i < xs.length) : byteAt (xs ++ ys) i = byteAt xs i :=
  List.getD_append xs ys 0 i h

theorem be16At_append_left (xs ys : List Byte) (i : Nat) (h : i + 1 < xs.length) :
    be16At (xs ++ ys) i = be16At xs i := by
  rw [be16At, byteAt_append_left xs ys i (by omega), byteAt_append_left xs ys (i + 1) h, be16At]

theorem byteAt_slice_zero (xs : List Byte) (i j : Nat) (h : i < j) : byteAt (slice xs i j) 0 = byteAt xs i := by
  have hpos : 0 < j - i := by omega
  simp [byteAt, slice, List.getD_eq_getElem?_getD, List.getElem?_take_of_lt hpos]

theorem slice_length_of_le (xs : List Byte) (i j : Nat) (h : j ≤ xs.length) : (slice xs i j).length = j - i := by
  simp only [slice, List.length_take, List.length_drop]
  omega

theorem slice_append_length (xs ys : List Byte) (i : Nat) : slice (xs ++ ys) i xs.length = xs.drop i := by
  obtain h | h := Nat.le_total i xs.length
  · simp [slice, List.drop_append_of_le_length h]
  · simp [slice, h]

/-! ### The length field -/

/-- `L` of R97: the length field of a frame, which counts the unitId byte and the PDU (R47). -/
def lengthField (din : List Byte) : Nat := (be16At din 4).toNat

/-- The length field as the statements write it. -/
theorem lengthField_eq (din : List Byte) :
    lengthField din = 256 * (din.getD 4 0#8).toNat + (din.getD 5 0#8).toNat := by
  rw [lengthField, be16At, wordOfBytes_toNat, Nat.add_comm]
  rfl

theorem lengthField_append (frame more : List Byte) (h : 6 ≤ frame.length) :
    lengthField (frame ++ more) = lengthField frame := by
  rw [lengthField, be16At_append_left frame more 4 (by omega), lengthField]

/-! ### The checks of MBAP_DECODE, in their order (R97) -/

theorem exec_mbapDecode (s : State) : exec .mbapDecode s = emit s (mbapOutputs s.inp.din s.inp.eof) :=
  exec_eq_emit_commandOutputs .mbapDecode s

theorem raisedOutputs_eq_raisedWith (c : OutcomeCode) (info : Option Info) :
    raisedOutputs { code := c, info := info } = raisedWith c info := rfl

@[simp] theorem raisedWith_outcome (c : OutcomeCode) (info : Option Info) : (raisedWith c info).outcome = some c := rfl

theorem mbapOutputs_of_short (din : List Byte) (eof : Bool) (h : din.length < 7) :
    mbapOutputs din eof = raisedWith (if eof then .closedHeader else .needMore) none := by
  cases eof <;> simp [mbapOutputs, Config.mbapHdrLen, h, raisedOutputs_eq_raisedWith]

theorem mbapOutputs_of_malformedLength (din : List Byte) (eof : Bool) (h7 : 7 ≤ din.length)
    (hL : lengthField din < 2) :
    mbapOutputs din eof = raisedWith .malformedLength (some (.length (lengthField din))) := by
  unfold lengthField at *
  simp [mbapOutputs, Config.mbapHdrLen, Nat.not_lt.mpr h7, hL, raisedOutputs_eq_raisedWith]

theorem mbapOutputs_of_incomplete (din : List Byte) (eof : Bool) (h7 : 7 ≤ din.length) (hL : 2 ≤ lengthField din)
    (hlen : din.length < 6 + lengthField din) :
    mbapOutputs din eof = raisedWith (if eof then .closedPdu else .needMore) none := by
  unfold lengthField at *
  cases eof <;> simp [mbapOutputs, Config.mbapHdrLen, Nat.not_lt.mpr h7, Nat.not_lt.mpr hL, hlen,
    raisedOutputs_eq_raisedWith]

theorem mbapOutputs_of_complete (din : List Byte) (eof : Bool) (hL : 2 ≤ lengthField din)
    (hlen : 6 + lengthField din ≤ din.length) :
    mbapOutputs din eof = mbapFrameOutputs din (slice din 7 (6 + lengthField din)) := by
  have h7 : 7 ≤ din.length := by omega
  unfold lengthField at *
  simp [mbapOutputs, Config.mbapHdrLen, Nat.not_lt.mpr h7, Nat.not_lt.mpr hL, Nat.not_lt.mpr hlen]

/-- MBAP_DECODE takes one of four ways: too short for a header, a length field below 2, too short for its frame, or a
complete frame. -/
theorem mbapOutputs_cases (din : List Byte) (eof : Bool) :
    (mbapOutputs din eof = raisedWith (if eof then .closedHeader else .needMore) none ∧ din.length < 7) ∨
      (mbapOutputs din eof = raisedWith .malformedLength (some (.length (lengthField din))) ∧ 7 ≤ din.length ∧
        lengthField din < 2) ∨
      (mbapOutputs din eof = raisedWith (if eof then .closedPdu else .needMore) none ∧ 7 ≤ din.length ∧
        2 ≤ lengthField din ∧ din.length < 6 + lengthField din) ∨
      (mbapOutputs din eof = mbapFrameOutputs din (slice din 7 (6 + lengthField din)) ∧ 2 ≤ lengthField din ∧
        6 + lengthField din ≤ din.length) := by
  obtain h7 | h7 := Nat.lt_or_ge din.length 7
  · exact .inl ⟨mbapOutputs_of_short din eof h7, h7⟩
  obtain hL | hL := Nat.lt_or_ge (lengthField din) 2
  · exact .inr (.inl ⟨mbapOutputs_of_malformedLength din eof h7 hL, h7, hL⟩)
  obtain hlen | hlen := Nat.lt_or_ge din.length (6 + lengthField din)
  · exact .inr (.inr (.inl ⟨mbapOutputs_of_incomplete din eof h7 hL hlen, h7, hL, hlen⟩))
  · exact .inr (.inr (.inr ⟨mbapOutputs_of_complete din eof hL hlen, hL, hlen⟩))

/-! ### A complete frame (R97, R99) -/

theorem mbapFrameOutputs_of_unsupported (din pdu : List Byte) (h : functionOfByte (byteAt pdu 0) = none) :
    mbapFrameOutputs din pdu = raisedWith .unsupportedFc (some (.fc (byteAt pdu 0))) := by
  simp only [mbapFrameOutputs, h, raisedOutputs_eq_raisedWith]

theorem mbapFrameOutputs_of_short (din pdu : List Byte) (hfc : functionOfByte (byteAt pdu 0) ≠ none)
    (hlen : pdu.length < 5) :
    mbapFrameOutputs din pdu = raisedWith .malformedPdu (some (.length (lengthField din))) := by
  obtain ⟨f, hf⟩ := Option.ne_none_iff_exists'.1 hfc
  simp only [mbapFrameOutputs, hf, if_pos hlen, raisedOutputs_eq_raisedWith, lengthField]

theorem mbapFrameOutputs_outcome_mem (din pdu : List Byte) :
    (mbapFrameOutputs din pdu).outcome ∈ [some .ok, some .unsupportedFc, some .malformedPdu] := by
  unfold mbapFrameOutputs
  split
  · simp
  · split <;> simp

/-- A complete frame is decided by its own bytes, whatever follows it and whatever `eof` (R105). -/
theorem mbapOutputs_append (frame more : List Byte) (eof : Bool) (hL : 2 ≤ lengthField frame)
    (hlen : frame.length = 6 + lengthField frame) :
    mbapOutputs (frame ++ more) eof = mbapFrameOutputs frame (frame.drop 7) := by
  have hfield := lengthField_append frame more (by omega)
  rw [mbapOutputs_of_complete _ eof (by omega) (by simp; omega), hfield, ← hlen, slice_append_length]
  simp only [mbapFrameOutputs, be16At_append_left frame more 0 (by omega), be16At_append_left frame more 2 (by omega),
    be16At_append_left frame more 4 (by omega), byteAt_append_left frame more 6 (by omega)]

/-! ### A request frame (R47, R48) -/

/-- The MBAP frame of a request, with `extra` bytes of its PDU after the fifth. -/
def requestFrame (tid pid : Word) (uid : Byte) (f : FunctionCode) (start qty : Word) (extra : List Byte) : List Byte :=
  be16Bytes tid ++ be16Bytes pid ++ be16Bytes (BitVec.ofNat 16 (extra.length + 6)) ++ [uid] ++
    requestPdu f start qty ++ extra

/-- The outputs of MBAP_DECODE of a request frame with `n` extra bytes of its PDU (R97). -/
def decodedRequest (tid pid : Word) (uid : Byte) (f : FunctionCode) (start qty : Word) (n : Nat) : Outputs :=
  { Outputs.idle with
    outcome := some .ok, tid := some tid, pid := some pid, len := some (BitVec.ofNat 16 (n + 6)), uid := some uid,
    fc := some (byteOfFunction f), start := some start, qty := some qty, consumed := some (12 + n) }

section
variable (tid pid : Word) (uid : Byte) (f : FunctionCode) (start qty : Word) (extra : List Byte)

theorem requestFrame_length : (requestFrame tid pid uid f start qty extra).length = 12 + extra.length := by
  simp only [requestFrame, requestPdu, List.length_append, List.length_cons, List.length_nil, be16Bytes_length]

theorem lengthField_requestFrame (h : extra.length + 6 < 65536) :
    lengthField (requestFrame tid pid uid f start qty extra) = extra.length + 6 := by
  have hfield : be16At (requestFrame tid pid uid f start qty extra) 4 = BitVec.ofNat 16 (extra.length + 6) := by
    simp [requestFrame, be16Bytes, be16At]
  rw [lengthField, hfield, BitVec.toNat_ofNat, Nat.mod_eq_of_lt h]

/-- A request frame decodes to its fields, whatever follows it (R97, R99, R100). -/
theorem mbapOutputs_requestFrame (tail : List Byte) (eof : Bool) (h : extra.length + 6 < 65536) :
    mbapOutputs (requestFrame tid pid uid f start qty extra ++ tail) eof =
      decodedRequest tid pid uid f start qty extra.length := by
  have hfield := lengthField_requestFrame tid pid uid f start qty extra h
  have hlen := requestFrame_length tid pid uid f start qty extra
  have hconsumed : 6 + (extra.length + 6) % 65536 = 12 + extra.length := by omega
  rw [mbapOutputs_append _ tail eof (by omega) (by omega)]
  simp [mbapFrameOutputs, requestFrame, requestPdu, be16Bytes, be16At, decodedRequest, okOutputs, hconsumed]

end

/-- Settles O43: the presented bytes are a request frame and what follows it. -/
theorem mbapDecodeAcceptsRequests : Obligations.MbapDecodeAcceptsRequests := by
  intro s tid pid uid f start qty extra tail hextra hdin
  have hframe : s.inp.din = requestFrame tid pid uid f start qty extra ++ tail := hdin
  rw [exec_mbapDecode, hframe, mbapOutputs_requestFrame tid pid uid f start qty extra tail _ hextra]
  rfl

/-- Settles O44, one check of R97 after the other. -/
theorem mbapDecodeOtherOutcomes : Obligations.MbapDecodeOtherOutcomes := by
  intro s L hfield
  rw [← lengthField_eq] at hfield
  subst hfield
  simp only [exec_mbapDecode]
  have hfc (hL : 2 ≤ lengthField s.inp.din) :
      byteAt (slice s.inp.din 7 (6 + lengthField s.inp.din)) 0 = s.inp.din.getD 7 0#8 :=
    byteAt_slice_zero _ 7 _ (by omega)
  refine ⟨fun h7 => ?_, fun h7 hL => ?_, fun h7 hL hlen => ?_, fun hL hlen hcode => ?_,
    fun hL hlen hcode hshort => ?_⟩
  · rw [mbapOutputs_of_short _ _ h7]
    rfl
  · rw [mbapOutputs_of_malformedLength _ _ h7 hL]
    rfl
  · rw [mbapOutputs_of_incomplete _ _ h7 hL hlen]
    rfl
  · rw [← functionOfByte_eq_none_iff_not_mem, ← hfc hL] at hcode
    rw [mbapOutputs_of_complete _ _ hL hlen, mbapFrameOutputs_of_unsupported _ _ hcode, hfc hL]
    rfl
  · have hsupported : functionOfByte (byteAt (slice s.inp.din 7 (6 + lengthField s.inp.din)) 0) ≠ none := by
      rwa [Ne, functionOfByte_eq_none_iff_not_mem, not_not, hfc hL]
    have hpdu := slice_length_of_le s.inp.din 7 _ hlen
    rw [mbapOutputs_of_complete _ _ hL hlen, mbapFrameOutputs_of_short _ _ hsupported (by omega)]
    rfl

/-- Only a complete frame ends with OK, UNSUPPORTED_FC or MALFORMED_PDU. -/
theorem two_le_lengthField_of_decided (din : List Byte) (eof : Bool)
    (h : (mbapOutputs din eof).outcome ∈ [some .ok, some .unsupportedFc, some .malformedPdu]) :
    2 ≤ lengthField din := by
  obtain ⟨hout, _⟩ | ⟨hout, _⟩ | ⟨_, _, hL, _⟩ | ⟨_, hL, _⟩ := mbapOutputs_cases din eof
  · cases eof <;> simp [hout] at h
  · simp [hout] at h
  · exact hL
  · exact hL

theorem lengthField_lt_two_of_malformedLength (din : List Byte) (eof : Bool)
    (h : (mbapOutputs din eof).outcome = some .malformedLength) : lengthField din < 2 := by
  obtain ⟨hout, _⟩ | ⟨_, _, hL⟩ | ⟨hout, _⟩ | ⟨hout, _⟩ := mbapOutputs_cases din eof
  · cases eof <;> simp [hout] at h
  · exact hL
  · cases eof <;> simp [hout] at h
  · have hmem := mbapFrameOutputs_outcome_mem din (slice din 7 (6 + lengthField din))
    simp [← hout, h] at hmem

/-- NEED_MORE is output while more bytes may come, and means the connection's end once none will (R105). -/
theorem eof_of_needMore (din : List Byte) (eof : Bool) (h : (mbapOutputs din eof).outcome = some .needMore) :
    eof = false ∧ ∃ c ∈ [OutcomeCode.closedHeader, .closedPdu], mbapOutputs din true = raisedWith c none := by
  obtain ⟨hout, h7⟩ | ⟨hout, _⟩ | ⟨hout, h7, hL, hlen⟩ | ⟨hout, _⟩ := mbapOutputs_cases din eof
  · have heof : eof = false := by simpa [hout] using h
    exact ⟨heof, .closedHeader, by simp, mbapOutputs_of_short din true h7⟩
  · simp [hout] at h
  · have heof : eof = false := by simpa [hout] using h
    exact ⟨heof, .closedPdu, by simp, mbapOutputs_of_incomplete din true h7 hL hlen⟩
  · have hmem := mbapFrameOutputs_outcome_mem din (slice din 7 (6 + lengthField din))
    simp [← hout, h] at hmem

/-- The outcomes R105 names are decided by the bytes it names: those of the frame, or the first 7. -/
theorem mbapOutputs_decided (frame more₁ more₂ : List Byte) (eof₁ eof₂ : Bool)
    (h : ((mbapOutputs (frame ++ more₁) eof₁).outcome ∈ [some .ok, some .unsupportedFc, some .malformedPdu] ∧
        frame.length = 6 + lengthField (frame ++ more₁)) ∨
      ((mbapOutputs (frame ++ more₁) eof₁).outcome = some .malformedLength ∧ frame.length = 7)) :
    mbapOutputs (frame ++ more₂) eof₂ = mbapOutputs (frame ++ more₁) eof₁ := by
  obtain ⟨hout, hlen⟩ | ⟨hout, hlen⟩ := h
  · have hL := two_le_lengthField_of_decided _ _ hout
    rw [lengthField_append _ _ (by omega)] at hL hlen
    rw [mbapOutputs_append _ _ _ hL hlen, mbapOutputs_append _ _ _ hL hlen]
  · have hL := lengthField_lt_two_of_malformedLength _ _ hout
    have hfield (more : List Byte) := lengthField_append frame more (by omega)
    rw [hfield] at hL
    have hout' (more : List Byte) (eof : Bool) :=
      mbapOutputs_of_malformedLength (frame ++ more) eof (by simp; omega) (by rwa [hfield])
    rw [hout', hout', hfield, hfield]

/-- Settles O45. -/
theorem mbapDecodeDependsOnItsFrame : Obligations.MbapDecodeDependsOnItsFrame := by
  simp only [Obligations.MbapDecodeDependsOnItsFrame, exec_mbapDecode, emit_eq_next]
  refine ⟨?_, ?_, ?_⟩
  · rintro s₁ s₂ _ _ hdin heof rfl rfl
    simp [hdin, heof]
  · rintro s _ frame more₁ more₂ eof hdin rfl h
    rw [← lengthField_eq, setOut_out, hdin] at h
    rw [setOut_out, hdin, mbapOutputs_decided frame more₁ more₂ s.inp.eof eof h]
    rfl
  · rintro s _ rfl h
    obtain ⟨heof, c, hc, hout⟩ := eof_of_needMore s.inp.din s.inp.eof h
    exact ⟨heof, _, c, rfl, by rw [setOut_out, hout]; rfl, hc⟩

end Sys2Proof.Machine
end

section
/-!
SUPPORT. MBAP_ENCODE (spec/44_mbap.md R101, R102, R104): the header put before the PDU that PDU_RESPONSE builds. O46
and O47.
-/
namespace Sys2Proof.Machine

/-! ### The response frame -/

/-- The two bytes of a u16, high byte first, as numbers (R9). -/
theorem be16Bytes_ofNat (n : Nat) :
    be16Bytes (BitVec.ofNat 16 n) = [BitVec.ofNat 8 (n / 256), BitVec.ofNat 8 (n % 256)] := by
  have hhigh : highByte (BitVec.ofNat 16 n) = BitVec.ofNat 8 (n / 256) := by
    apply BitVec.eq_of_toNat_eq
    simp only [highByte, BitVec.extractLsb'_toNat, BitVec.toNat_ofNat, Nat.shiftRight_eq_div_pow]
    omega
  have hlow : lowByte (BitVec.ofNat 16 n) = BitVec.ofNat 8 (n % 256) := by
    apply BitVec.eq_of_toNat_eq
    simp [lowByte]
  rw [be16Bytes, hhigh, hlow]

/-- The frame of R102 with the bytes of its protocolId written out. -/
theorem mbapFrame_eq (tid : Word) (uid : Byte) (pdu : List Byte) :
    mbapFrame tid uid pdu =
      be16Bytes tid ++ [0x00#8, 0x00#8] ++ be16Bytes (BitVec.ofNat 16 (pdu.length + 1)) ++ [uid] ++ pdu := rfl

theorem mbapFrame_length (tid : Word) (uid : Byte) (pdu : List Byte) :
    (mbapFrame tid uid pdu).length = 7 + pdu.length := by
  simp only [mbapFrame, List.length_append, List.length_cons, List.length_nil, be16Bytes_length]

/-- The length field of a response frame counts the unitId byte and the PDU (R47, R102). -/
theorem lengthField_mbapFrame (tid : Word) (uid : Byte) (pdu : List Byte) (h : pdu.length + 1 < 65536) :
    lengthField (mbapFrame tid uid pdu) = pdu.length + 1 := by
  have hfield : be16At (mbapFrame tid uid pdu) 4 = BitVec.ofNat 16 (pdu.length + 1) := by
    simp [mbapFrame, be16Bytes, be16At]
  rw [lengthField, hfield, BitVec.toNat_ofNat, Nat.mod_eq_of_lt h]

/-! ### MBAP_ENCODE -/

theorem exec_mbapEncode (fc : Byte) (s : State) :
    exec (.mbapEncode fc) s =
      emit s (doutOutputs ((responsePdu s.params.bitCoerce fc s.inp.results).map (mbapFrame s.inp.tid s.inp.uid))) :=
  exec_eq_emit_commandOutputs (.mbapEncode fc) s

/-- Where the results fit, MBAP_ENCODE outputs the frame around the response PDU. -/
theorem exec_mbapEncode_of_fits (f : FunctionCode) (s : State) (h : ResponseFits f s.inp.results.length) :
    exec (.mbapEncode (byteOfFunction f)) s =
      emit s { okOutputs with
        dout := some (mbapFrame s.inp.tid s.inp.uid (responseBytes s.params.bitCoerce f s.inp.results)) } := by
  rw [exec_mbapEncode, responsePdu_of_fits _ f _ h]
  rfl

/-- Settles O46: the response build is that of PDU_RESPONSE on the same state, and what it raises passes unchanged. -/
theorem mbapEncodeResult : Obligations.MbapEncodeResult := by
  refine ⟨fun s f hfits => ?_, fun s t fc ht hout => ?_⟩
  · refine ⟨_, _, exec_pduResponse_of_fits f s hfits, rfl, ?_⟩
    rw [exec_mbapEncode_of_fits f s hfits, mbapFrame_eq, be16Bytes_ofNat]
    rfl
  · rw [exec_pduResponse] at ht
    rw [exec_mbapEncode, ← ht]
    cases hpdu : responsePdu s.params.bitCoerce fc s.inp.results with
    | error e => rfl
    | ok pdu =>
      rw [hpdu, emit_eq_next] at ht
      exact absurd (by simp [ht]) hout

/-- A frame on `dout` is the one around the response PDU of results that fit. -/
theorem dout_mbapEncode_eq_some (f : FunctionCode) (s t : State) (frame : List Byte)
    (ht : exec (.mbapEncode (byteOfFunction f)) s = .next t) (hdout : t.out.dout = some frame) :
    ResponseFits f s.inp.results.length ∧
      frame = mbapFrame s.inp.tid s.inp.uid (responseBytes s.params.bitCoerce f s.inp.results) := by
  by_cases hfits : ResponseFits f s.inp.results.length
  · rw [exec_mbapEncode_of_fits f s hfits, emit_eq_next] at ht
    exact ⟨hfits, by simpa [ht, eq_comm] using hdout⟩
  · rw [exec_mbapEncode, responsePdu_of_not_fits _ f _ hfits, emit_eq_next] at ht
    simp [ht, Except.map] at hdout

/-- Settles O47. -/
theorem mbapLengthLaw : Obligations.MbapLengthLaw := by
  intro s t f frame ht hdout
  obtain ⟨hfits, rfl⟩ := dout_mbapEncode_eq_some f s t frame ht hdout
  rw [responseFits_iff_payloadLength_le] at hfits
  have hpdu := responseBytes_length s.params.bitCoerce f s.inp.results
  rw [← lengthField_eq, lengthField_mbapFrame _ _ _ (by omega), mbapFrame_length]
  omega

end Sys2Proof.Machine
end

section
/-!
SUPPORT. Rounds of the TCP handler (spec/44_mbap.md R98, R103): what issuing a command does to the block, and a round by
what its MBAP_DECODE ends with. O58 and O59.
-/
namespace Sys2Proof.Machine

/-! ### Issuing a command -/

/-- An issued command runs on the block with its own ports, and the inbox is as it was before (R31). -/
theorem issue_outside (s : State) (i : Instr) (ports : Inputs) (h : s.inReset = false) :
    issue s i ports = exec i (presentPorts s ports) :=
  step_presented { s with inbox := presented i ports :: s.inbox } i ports s.inbox h rfl

/-- A block in reset takes no command (R135). -/
theorem issue_inReset (s : State) (i : Instr) (ports : Inputs) (h : s.inReset = true) :
    issue s i ports = .next (clearPorts s) := by
  have hstep : issue s i ports = runPresented (encode i) ports s := rfl
  rw [hstep, runPresented, if_pos h]

/-- A command that writes no register, when issued, changes the ports only. -/
theorem issue_of_writtenState_eq (s : State) (i : Instr) (ports : Inputs) (hi : ∀ t, writtenState i t = t) :
    ∃ p o, issue s i ports = .next (setOut (presentPorts s p) o) := by
  cases hreset : s.inReset with
  | true => exact ⟨Inputs.idle, Outputs.idle, issue_inReset s i ports hreset⟩
  | false => exact ⟨ports, _, by rw [issue_outside s i ports hreset, exec_eq_emit_commandOutputs, hi]; rfl⟩

/-! ### What every round leaves -/

/-- The round writes bytes or drops received ones only when it answers, and the block's registers and inbox are those of
`s`. -/
def TcpRound.WritesOnlyAnswers (s : State) (received : List Byte) (r : TcpRound) : Prop :=
  (r.action ≠ .answer → r.written = [] ∧ r.rest = received) ∧
    r.state.crcAcc = s.crcAcc ∧ r.state.rtuBuf = s.rtuBuf ∧ r.state.unitId = s.unitId ∧ r.state.inbox = s.inbox

theorem tcpAnswer_writesOnlyAnswers (synth : Byte → Nat → Word) (t : State) (received : List Byte) :
    (tcpAnswer synth t received).WritesOnlyAnswers t received := by
  unfold tcpAnswer
  extract_lets fc results base ports
  obtain ⟨p, o, hissue⟩ := issue_of_writtenState_eq t (.mbapEncode fc) ports fun _ => rfl
  rw [hissue]
  cases hdout : o.dout with
  | none => simp [TcpRound.WritesOnlyAnswers, hdout]
  | some bytes => simp [TcpRound.WritesOnlyAnswers, hdout]

theorem tcpRound_writesOnlyAnswers (synth : Byte → Nat → Word) (s : State) (received : List Byte) (eof : Bool) :
    (tcpRound synth s received eof).WritesOnlyAnswers s received := by
  unfold tcpRound
  obtain ⟨p, o, hissue⟩ :=
    issue_of_writtenState_eq s .mbapDecode { Inputs.idle with din := received, eof := eof } fun _ => rfl
  rw [hissue]
  dsimp only
  split
  · exact tcpAnswer_writesOnlyAnswers synth _ received
  all_goals simp [TcpRound.WritesOnlyAnswers]

/-- Settles O58. -/
theorem tcpRoundWritesOnlyAnswers : Obligations.TcpRoundWritesOnlyAnswers := by
  rintro synth s received eof _ rfl
  exact tcpRound_writesOnlyAnswers synth s received eof

/-! ### The round that answers -/

/-- The block after an issued MBAP_DECODE of the received bytes. -/
def decodedState (s : State) (received : List Byte) (eof : Bool) : State :=
  setOut (presentPorts s { Inputs.idle with din := received, eof := eof }) (mbapOutputs received eof)

theorem tcpRound_of_ok (synth : Byte → Nat → Word) (s : State) (received : List Byte) (eof : Bool)
    (hreset : s.inReset = false) (h : (mbapOutputs received eof).outcome = some .ok) :
    tcpRound synth s received eof = tcpAnswer synth (decodedState s received eof) received := by
  unfold tcpRound
  rw [issue_outside s _ _ hreset, exec_mbapDecode]
  simp [emit, h, tcpAction, decodedState]

section
variable (synth : Byte → Nat → Word) (received : List Byte) (tid pid : Word) (uid : Byte) (f : FunctionCode)
  (start qty : Word) (n : Nat)

/-- A decoded request whose results fit is answered with their response frame (R101, R103). -/
theorem tcpAnswer_decodedRequest (t : State) (hreset : t.inReset = false)
    (hout : t.out = decodedRequest tid pid uid f start qty n) (hfits : ResponseFits f qty.toNat) :
    ∃ u, tcpAnswer synth t received =
      { state := u, rest := received.drop (12 + n), action := .answer,
        written := mbapFrame tid uid
          (responseBytes t.params.bitCoerce f (synthesize synth (byteOfFunction f) start qty)) } := by
  have hlen : (synthesize synth (byteOfFunction f) start qty).length = qty.toNat := by simp [synthesize]
  unfold tcpAnswer
  simp only [hout, decodedRequest, Option.getD_some]
  rw [issue_outside t _ _ hreset, exec_mbapEncode_of_fits f _ (by simpa [hlen] using hfits)]
  exact ⟨_, rfl⟩

/-- A round on bytes that decode to a request whose results fit writes their response frame and drops the request. -/
theorem tcpRound_of_decodedRequest (s : State) (eof : Bool) (hreset : s.inReset = false)
    (hout : mbapOutputs received eof = decodedRequest tid pid uid f start qty n) (hfits : ResponseFits f qty.toNat) :
    ∃ u, tcpRound synth s received eof =
      { state := u, rest := received.drop (12 + n), action := .answer,
        written := mbapFrame tid uid
          (responseBytes s.params.bitCoerce f (synthesize synth (byteOfFunction f) start qty)) } := by
  rw [tcpRound_of_ok synth s received eof hreset (by rw [hout]; rfl)]
  exact tcpAnswer_decodedRequest synth received tid pid uid f start qty n (decodedState s received eof) hreset hout
    hfits

end

/-- The response frame of R46 and R102, with its payload written out. -/
theorem mbapFrame_responseBytes (tid : Word) (uid : Byte) (mode : Config.BitCoerce) (f : FunctionCode)
    (rs : List Word) :
    mbapFrame tid uid (responseBytes mode f rs) =
      be16Bytes tid ++ [0x00#8, 0x00#8] ++ be16Bytes (BitVec.ofNat 16 (3 + (payload mode f rs).length)) ++
        [uid, byteOfFunction f, BitVec.ofNat 8 (payload mode f rs).length] ++ payload mode f rs := by
  have hlen : (responseBytes mode f rs).length + 1 = 3 + (payload mode f rs).length := by
    rw [responseBytes_length, payload_length_eq_payloadLength]
    omega
  rw [mbapFrame_eq, hlen]
  simp [responseBytes]

theorem payload_eq_ite (mode : Config.BitCoerce) (f : FunctionCode) (rs : List Word) :
    payload mode f rs = if f = .readCoils ∨ f = .readDiscreteInputs then packBits mode rs else packWords rs := by
  cases f <;> rfl

/-- Settles O59: the request decodes whatever follows it, and the answer drops exactly its bytes. -/
theorem tcpRequestIsAnswered : Obligations.TcpRequestIsAnswered := by
  intro synth s tid pid uid f start qty extra tail eof results p hreset hextra hfits hresults hp
  rw [← payload_eq_ite] at hp
  subst hresults hp
  obtain ⟨u, hround⟩ := tcpRound_of_decodedRequest synth (requestFrame tid pid uid f start qty extra ++ tail)
    tid pid uid f start qty extra.length s eof hreset
    (mbapOutputs_requestFrame tid pid uid f start qty extra tail eof hextra) hfits
  refine ⟨_, hround, rfl, ?_, ?_⟩
  · exact List.drop_left' (requestFrame_length tid pid uid f start qty extra)
  · exact mbapFrame_responseBytes tid uid _ f _

end Sys2Proof.Machine
end

section
/-!
SUPPORT. RTU_DECODE (spec/45_rtu.md R108): the checks in their order, said once in the words of the statements. O48.
-/
namespace Sys2Proof.Machine

theorem exec_rtuDecode (s : State) : exec .rtuDecode s = emit s (rtuOutputs s.unitId s.inp.din) :=
  exec_eq_emit_commandOutputs .rtuDecode s

/-- On 8 bytes the decoder's own trailer comparison is the trailer check of CRC_CHECK (R66). -/
theorem trailerMatches_of_length_eight (din : List Byte) (h : din.length = 8) :
    trailerMatches din = (crc16 (slice din 0 6) == le16At din 6) := by
  simp [trailerMatches, h]

/-- The outputs of RTU_DECODE of an 8-byte request that passes every check (R49). -/
def decodedRtuRequest (din : List Byte) : Outputs :=
  { okOutputs with
      uid := some (byteAt din 0), fc := some (byteAt din 1), start := some (be16At din 2), qty := some (be16At din 4) }

/-- RTU_DECODE checks length, trailer, unit and function code, in that order (R108). -/
theorem rtuOutputs_eq (unitId : Byte) (din : List Byte) :
    rtuOutputs unitId din =
      if din.length ≠ 8 then raisedWith .dropLength (some (.length din.length))
      else if trailerMatches din = false then raisedWith .dropCrc none
      else if byteAt din 0 ≠ unitId then raisedWith .dropUnit (some (.unitId (byteAt din 0)))
      else if functionOfByte (byteAt din 1) = none then raisedWith .dropFc (some (.fc (byteAt din 1)))
      else decodedRtuRequest din := by
  by_cases hlen : din.length = 8
  · simp only [rtuOutputs, trailerMatches_of_length_eight din hlen, beq_eq_false_iff_ne, raisedOutputs_eq_raisedWith]
    cases hfc : functionOfByte (byteAt din 1) <;> rfl
  · simp only [rtuOutputs, Config.rtuReqLen, ne_eq, hlen, not_false_eq_true, if_true, raisedOutputs_eq_raisedWith]

/-- What ends with OK is an 8-byte frame for the unit with a function code 1 to 4 (R109). -/
theorem frame_of_rtuOutputs_ok (unitId : Byte) (din : List Byte) (h : (rtuOutputs unitId din).outcome = some .ok) :
    din.length = 8 ∧ byteAt din 0 = unitId ∧ functionOfByte (byteAt din 1) ≠ none := by
  rw [rtuOutputs_eq] at h
  split_ifs at h with hlen _ hunit hfc
  case neg => exact ⟨not_not.1 hlen, not_not.1 hunit, hfc⟩
  all_goals simp at h

theorem rtuOutputs_outcome_ne_noFrame (unitId : Byte) (din : List Byte) :
    (rtuOutputs unitId din).outcome ≠ some .noFrame := by
  rw [rtuOutputs_eq]
  split_ifs <;> simp [decodedRtuRequest]

/-- Settles O48. -/
theorem rtuDecodeResult : Obligations.RtuDecodeResult := by
  refine ⟨rfl, fun s hlen => ?_, fun s b0 b1 b2 b3 b4 b5 b6 b7 hdin => ?_⟩
  · rw [exec_rtuDecode, rtuOutputs_eq, if_pos hlen]
    rfl
  · have hlen : [b0, b1, b2, b3, b4, b5, b6, b7].length = 8 := rfl
    have htrailer := trailerMatches_append_eq_decide [b0, b1, b2, b3, b4, b5] b6 b7
    simp only [List.cons_append, List.nil_append] at htrailer
    rw [exec_rtuDecode, hdin, rtuOutputs_eq, if_neg (not_not.2 hlen), htrailer]
    simp only [decide_eq_false_iff_not, functionOfByte_eq_none_iff_not_mem]
    rfl

end Sys2Proof.Machine
end

section
/-!
SUPPORT. RTU_ENCODE (spec/45_rtu.md R107, R110): the unit before and the CRC after the PDU that PDU_RESPONSE builds. O50.
-/
namespace Sys2Proof.Machine

/-- A frame passes the trailer check that its own CRC was put after it for (R107). -/
theorem trailerMatches_rtuFrame (unitId : Byte) (pdu : List Byte) : trailerMatches (rtuFrame unitId pdu) = true := by
  rw [rtuFrame, le16Bytes, trailerMatches_append, wordOfBytes_high_low, beq_self_eq_true]

theorem exec_rtuEncode (fc : Byte) (s : State) :
    exec (.rtuEncode fc) s =
      emit s (doutOutputs ((responsePdu s.params.bitCoerce fc s.inp.results).map (rtuFrame s.unitId))) :=
  exec_eq_emit_commandOutputs (.rtuEncode fc) s

/-- What a response build raises passes through any framing of its PDU unchanged. -/
theorem doutOutputs_map_of_outcome_ne_ok (r : Except Raised (List Byte)) (frame : List Byte → List Byte)
    (h : (doutOutputs r).outcome ≠ some .ok) : doutOutputs (r.map frame) = doutOutputs r := by
  cases r with
  | ok pdu => exact absurd rfl h
  | error e => rfl

/-- Settles O50: the response build is that of PDU_RESPONSE on the same state. -/
theorem rtuEncodeResult : Obligations.RtuEncodeResult := by
  refine ⟨fun s f hfits => ?_, fun s t fc ht hout => ?_⟩
  · refine ⟨_, _, _, exec_pduResponse_of_fits f s hfits, rfl, rfl, trailerMatches_rtuFrame _ _, ?_⟩
    rw [exec_rtuEncode, responsePdu_of_fits _ f _ hfits]
    rfl
  · rw [exec_pduResponse, emit_eq_next] at ht
    subst ht
    rw [exec_rtuEncode, doutOutputs_map_of_outcome_ne_ok _ _ hout]
    rfl

end Sys2Proof.Machine
end

section
/-!
SUPPORT. RTU_FEED by what the search of its buffer finds (spec/45_rtu.md R111 to R113): O51, O52 and O53.
-/
namespace Sys2Proof.Machine

/-! ### The buffer and the search -/

/-- The buffer as the statements write it is the buffer the machine searches. -/
theorem bufferAfterFeed_eq_appendByte (s : State) (b : Byte) :
    bufferAfterFeed s b = appendByte s.params.rtuBufCap s.rtuBuf b := by
  unfold bufferAfterFeed appendByte
  cases s.params.rtuBufCap <;> simp

/-! ### What RTU_FEED answers -/

/-- With no accepted window the bytes are kept, and nothing but the outcome is output (R111). -/
theorem exec_rtuFeed_of_none (s : State) (b : Byte) (buf : List Byte)
    (hbuf : appendByte s.params.rtuBufCap s.rtuBuf b = buf) (h : acceptedWindow buf = none) :
    exec (.rtuFeed b) s = .next { s with rtuBuf := buf, out := raisedWith .noFrame none } := by
  subst hbuf
  exact scanBuffer_none s _ h

/-- With an accepted window the buffer is emptied, and the outputs are those of the window's decoding (R111, R112). -/
theorem exec_rtuFeed_of_some (s : State) (b : Byte) (buf w : List Byte)
    (hbuf : appendByte s.params.rtuBufCap s.rtuBuf b = buf) (h : acceptedWindow buf = some w) :
    exec (.rtuFeed b) s =
      .next { s with rtuBuf := [], out := { rtuOutputs s.unitId w with frame := some w } } := by
  subst hbuf
  exact scanBuffer_some s _ w h

/-- Settles O51. -/
theorem rtuFeedKeepsAccumulating : Obligations.RtuFeedKeepsAccumulating := fun s b hnone =>
  exec_rtuFeed_of_none s b _ (bufferAfterFeed_eq_appendByte s b).symm ((acceptedWindow_eq_none _).2 hnone)

/-- Settles O52. -/
theorem rtuFeedAcceptsShortestWindow : Obligations.RtuFeedAcceptsShortestWindow := by
  rintro s b len _ h8 hlen rfl hmatches hfirst
  have haccepted := acceptedWindow_first (bufferAfterFeed s b) len h8 hlen hmatches hfirst
  exact ⟨_, exec_rtuDecode _, exec_rtuFeed_of_some s b _ _ (bufferAfterFeed_eq_appendByte s b).symm haccepted⟩

/-! ### A finite capacity (R113) -/

/-- Settles O53: the finite block searches the last `cap` bytes of what the unbounded one searches. -/
theorem capacityKeepsShortWindows : Obligations.CapacityKeepsShortWindows := by
  intro s u b cap hs hu hunit hbuf
  have hbufU : appendByte u.params.rtuBufCap u.rtuBuf b = u.rtuBuf ++ [b] := by rw [hu]; rfl
  have hbufS : appendByte s.params.rtuBufCap s.rtuBuf b = windowOf (u.rtuBuf ++ [b]) cap := by
    rw [hs, hbuf]
    exact appendByte_windowOf u.rtuBuf cap b
  have hdrop : windowOf (u.rtuBuf ++ [b]) cap = (u.rtuBuf ++ [b]).drop (u.rtuBuf.length + 1 - cap) := by
    simp [windowOf]
  cases haccepted : acceptedWindow (u.rtuBuf ++ [b]) with
  | none =>
    have hnone : acceptedWindow (windowOf (u.rtuBuf ++ [b]) cap) = none := by
      rw [acceptedWindow_windowOf, haccepted, Option.filter_none]
    refine ⟨_, exec_rtuFeed_of_none u b _ hbufU haccepted, fun _ => ?_, nofun⟩
    exact exec_rtuFeed_of_none s b _ hbufS hnone
  | some w =>
    refine ⟨_, exec_rtuFeed_of_some u b _ w hbufU haccepted, fun hshort => ?_, ?_⟩
    · have hsome : acceptedWindow (windowOf (u.rtuBuf ++ [b]) cap) = some w := by
        rw [acceptedWindow_windowOf, haccepted, Option.filter_some_pos (by simpa using hshort w rfl)]
      simp [exec_rtuFeed_of_some s b _ w hbufS hsome, hunit]
    · rintro _ ⟨⟩ hlong
      have hnone : acceptedWindow (windowOf (u.rtuBuf ++ [b]) cap) = none := by
        rw [acceptedWindow_windowOf, haccepted, Option.filter_some_neg (by simpa using hlong)]
      rw [← hdrop]
      exact exec_rtuFeed_of_none s b _ hbufS hnone

end Sys2Proof.Machine
end

section
/-!
SUPPORT. Runs of RTU_FEED (spec/45_rtu.md R115): while every feed ends with NO_FRAME the buffer holds the last bytes fed.
O54.
-/
namespace Sys2Proof.Machine

/-! ### Runs of instructions -/

/-- A run goes on from the state its first part leads to. -/
theorem runInstrs_append (is js : List Instr) (s t : State) (h : runInstrs is s = .next t) :
    runInstrs (is ++ js) s = runInstrs js t := by
  induction is generalizing s with
  | nil => rw [List.nil_append, Host.Outcome.next.inj h]
  | cons i is ih =>
    rw [runInstrs, exec_eq_emit_commandOutputs] at h
    rw [List.cons_append, runInstrs, exec_eq_emit_commandOutputs]
    exact ih _ h

theorem runInstrs_singleton (i : Instr) (s : State) : runInstrs [i] s = exec i s := by
  rw [runInstrs, exec_eq_emit_commandOutputs]
  rfl

/-- A run ends with the feed of its last byte. -/
theorem runInstrs_feed_last (fed : List Byte) (b : Byte) (s t : State)
    (h : runInstrs (fed.map .rtuFeed) s = .next t) :
    runInstrs ((fed ++ [b]).map .rtuFeed) s = exec (.rtuFeed b) t := by
  rw [List.map_append, runInstrs_append _ _ s t h]
  exact runInstrs_singleton (.rtuFeed b) t

/-! ### Bytes fed without a frame -/

/-- What a buffer of the given capacity holds of the bytes fed to it: all of them, or the last ones (R113). -/
def bufferOfFed (cap : Option Nat) (fed : List Byte) : List Byte :=
  match cap with
  | none => fed
  | some c => windowOf fed c

theorem bufferOfFed_nil (cap : Option Nat) : bufferOfFed cap [] = [] := by
  cases cap <;> simp [bufferOfFed, windowOf]

theorem appendByte_bufferOfFed (cap : Option Nat) (fed : List Byte) (b : Byte) :
    appendByte cap (bufferOfFed cap fed) b = bufferOfFed cap (fed ++ [b]) := by
  cases cap with
  | none => rfl
  | some c => exact appendByte_windowOf fed c b

/-- A window within the capacity is the same in the buffer as in all the bytes fed. -/
theorem windowOf_bufferOfFed (cap : Option Nat) (fed : List Byte) (len : Nat) (hcap : ∀ c, cap = some c → len ≤ c) :
    windowOf (bufferOfFed cap fed) len = windowOf fed len := by
  cases cap with
  | none => rfl
  | some c => exact windowOf_windowOf fed c len (hcap c rfl)

/-- A feed that ends with NO_FRAME has accepted no window (R111). -/
theorem acceptedWindow_eq_none_of_noFrame (s t : State) (b : Byte) (ht : exec (.rtuFeed b) s = .next t)
    (hout : t.out.outcome = some .noFrame) : acceptedWindow (appendByte s.params.rtuBufCap s.rtuBuf b) = none := by
  cases h : acceptedWindow (appendByte s.params.rtuBufCap s.rtuBuf b) with
  | none => rfl
  | some w =>
    rw [exec_rtuFeed_of_some s b _ w rfl h] at ht
    obtain rfl := Host.Outcome.next.inj ht
    exact absurd hout (rtuOutputs_outcome_ne_noFrame s.unitId w)

/-- Every feed of the bytes ends with NO_FRAME. -/
def FeedsQuietly (s : State) (bytes : List Byte) : Prop :=
  ∀ fed b, fed ++ [b] <+: bytes →
    ∃ t, runInstrs ((fed ++ [b]).map .rtuFeed) s = .next t ∧ t.out.outcome = some .noFrame

/-- Bytes fed without a frame to an empty buffer stand in it, as far as its capacity reaches, and change nothing else. -/
theorem runInstrs_of_feedsQuietly (s : State) (bytes : List Byte) (hempty : s.rtuBuf = [])
    (hquiet : FeedsQuietly s bytes) :
    ∃ o, runInstrs (bytes.map .rtuFeed) s =
      .next { s with rtuBuf := bufferOfFed s.params.rtuBufCap bytes, out := o } := by
  induction bytes using List.reverseRecOn with
  | nil =>
    have hsame : { s with rtuBuf := [] } = s := by rw [← hempty]
    exact ⟨s.out, by rw [bufferOfFed_nil, hsame]; rfl⟩
  | append_singleton fed b ih =>
    obtain ⟨o, hfed⟩ := ih fun fed' b' h => hquiet fed' b' (h.trans (List.prefix_append fed [b]))
    obtain ⟨t, ht, hout⟩ := hquiet fed b (List.prefix_refl _)
    have hlast := runInstrs_feed_last fed b s _ hfed
    have hnone := acceptedWindow_eq_none_of_noFrame _ t b (hlast ▸ ht) hout
    exact ⟨_, hlast.trans (exec_rtuFeed_of_none _ b _ (appendByte_bufferOfFed _ fed b)
      (appendByte_bufferOfFed s.params.rtuBufCap fed b ▸ hnone))⟩

/-- Eight bytes with a correct trailer at the end of what was fed are the accepted window, whatever stands before them:
the length 8 is tried first (R115). -/
theorem acceptedWindow_bufferOfFed (cap : Option Nat) (garbage frame : List Byte) (hlen : frame.length = 8)
    (hmatches : trailerMatches frame = true) (hcap : ∀ c, cap = some c → 8 ≤ c) :
    acceptedWindow (bufferOfFed cap (garbage ++ frame)) = some frame := by
  have hwindow : windowOf (bufferOfFed cap (garbage ++ frame)) 8 = frame := by
    rw [windowOf_bufferOfFed cap _ 8 hcap]
    exact List.drop_left' (by simp [hlen])
  have hheld : 8 ≤ (bufferOfFed cap (garbage ++ frame)).length := by
    have hlength := windowOf_length (bufferOfFed cap (garbage ++ frame)) 8
    rw [hwindow, hlen] at hlength
    omega
  have haccepted := acceptedWindow_first _ 8 (le_refl 8) hheld (by rwa [hwindow]) fun k h8 hlt => by omega
  rwa [hwindow] at haccepted

/-- Settles O54: before the last feed the buffer holds the last bytes fed, so the 8-byte window is the frame. -/
theorem framerResynchronises : Obligations.FramerResynchronises := by
  intro s garbage frame hlen hmatches hempty hcap hquiet
  obtain ⟨o, hbefore⟩ := runInstrs_of_feedsQuietly s _ hempty hquiet
  have hne : frame ≠ [] := List.ne_nil_of_length_pos (by omega)
  have hsplit : garbage ++ frame = (garbage ++ frame.dropLast) ++ [frame.getLast hne] := by
    rw [List.append_assoc, List.dropLast_concat_getLast]
  have hlast := runInstrs_feed_last _ (frame.getLast hne) s _ hbefore
  rw [exec_rtuFeed_of_some _ _ _ frame (appendByte_bufferOfFed _ _ _)
    (hsplit ▸ acceptedWindow_bufferOfFed _ garbage frame hlen hmatches hcap), ← hsplit] at hlast
  exact ⟨_, _, hlast, rfl, exec_rtuDecode _, rfl⟩

end Sys2Proof.Machine
end

section
/-!
SUPPORT. Rounds of the serial reader (spec/45_rtu.md R109, R117): only a fed byte that completes a request is answered.
O60.
-/
namespace Sys2Proof.Machine

/-- The buffer after a feed holds the last bytes of what was received. -/
theorem appendByte_suffix (cap : Option Nat) (buf : List Byte) (b : Byte) : appendByte cap buf b <:+ buf ++ [b] := by
  unfold appendByte
  split
  · exact List.suffix_refl _
  · split
    · exact List.drop_suffix 1 _
    · exact List.suffix_refl _

theorem acceptedWindow_suffix (buf w : List Byte) (h : acceptedWindow buf = some w) : w <:+ buf := by
  obtain ⟨len, _, _, rfl, _, _⟩ := (acceptedWindow_eq_some buf w).1 h
  exact List.drop_suffix _ buf

/-- A feed that ends with OK has accepted a window whose decoding is OK (R111). -/
theorem acceptedWindow_of_rtuFeed_ok (s t : State) (b : Byte) (ht : exec (.rtuFeed b) s = .next t)
    (hout : t.out.outcome = some .ok) :
    ∃ w, acceptedWindow (appendByte s.params.rtuBufCap s.rtuBuf b) = some w ∧
      (rtuOutputs s.unitId w).outcome = some .ok := by
  cases h : acceptedWindow (appendByte s.params.rtuBufCap s.rtuBuf b) with
  | none =>
    rw [exec_rtuFeed_of_none s b _ rfl h] at ht
    obtain rfl := Host.Outcome.next.inj ht
    simp at hout
  | some w =>
    rw [exec_rtuFeed_of_some s b _ w rfl h] at ht
    obtain rfl := Host.Outcome.next.inj ht
    exact ⟨w, rfl, hout⟩

/-- An outcome is answered exactly when it is OK (R114). -/
theorem rtuAction_eq_answer_iff (c : OutcomeCode) : rtuAction c = .answer ↔ c = .ok := by
  cases c <;> decide

/-- A round writes nothing unless its feed ends with OK (R117). -/
theorem outcome_ok_of_rtuRound_written (synth : Byte → Nat → Word) (s t : State) (b : Byte)
    (ht : issue s (.rtuFeed b) Inputs.idle = .next t) (h : (rtuRound synth s b).written ≠ []) :
    t.out.outcome = some .ok := by
  simp only [rtuRound, ht] at h
  split at h
  next haction =>
    obtain ⟨c, hc, hanswer⟩ := Option.map_eq_some_iff.1 haction
    rw [hc, (rtuAction_eq_answer_iff c).1 hanswer]
  all_goals exact absurd rfl h

/-- Settles O60: the accepted window is the frame, and it ended with OK only by passing every check of R108. -/
theorem rtuRoundWritesOnlyForThisUnit : Obligations.RtuRoundWritesOnlyForThisUnit := by
  intro synth s b hwritten
  cases hreset : s.inReset with
  | true =>
    have hok := outcome_ok_of_rtuRound_written synth s _ b (issue_inReset s _ _ hreset) hwritten
    exact nomatch hok
  | false =>
    have hissue := issue_outside s (.rtuFeed b) Inputs.idle hreset
    have hexec := exec_eq_emit_commandOutputs (.rtuFeed b) (presentPorts s Inputs.idle)
    have hok := outcome_ok_of_rtuRound_written synth s _ b (hissue.trans hexec) hwritten
    obtain ⟨w, haccepted, hdecoded⟩ := acceptedWindow_of_rtuFeed_ok _ _ b hexec hok
    obtain ⟨hlen, hunit, hfc⟩ := frame_of_rtuOutputs_ok _ w hdecoded
    rw [Ne, functionOfByte_eq_none_iff_not_mem, not_not] at hfc
    exact ⟨rfl, w, (acceptedWindow_suffix _ w haccepted).trans (appendByte_suffix _ _ b), hlen,
      acceptedWindow_matches _ w haccepted, hunit, hfc⟩

end Sys2Proof.Machine
end

section
/-!
SUPPORT. The ends a command can have (spec/60_exceptions.md R10, R121, R122): it returns OK, or it raises an outcome of
R121 with the info of that outcome's row and nothing else. Said once for the shared operations and then once for all
instructions.
-/
namespace Sys2Proof.Machine

/-! ### What a raise names (R121) -/

/-- A raise of one of `codes`, other than OK, with an info value exactly when the outcome's row names one (R121, R122). -/
structure Raised.FollowsTable (codes : List OutcomeCode) (e : Raised) : Prop where
  mem : e.code ∈ codes
  ne_ok : e.code ≠ .ok
  info : e.info.isSome = namesInfo e.code

/-- The outputs of a command that ends with one of `codes`, by `return` or by `raise` (R10), and accepts no frame. -/
inductive EndsBy (codes : List OutcomeCode) (o : Outputs) : Prop where
  | returned (mem : .ok ∈ codes) (outcome : o.outcome = some .ok) (info : o.info = none) (frame : o.frame = none)
  | raised {e : Raised} (table : e.FollowsTable codes) (outputs : o = raisedOutputs e)

theorem endsBy_raisedOutputs {codes : List OutcomeCode} {c : OutcomeCode} {info : Option Info} (hmem : c ∈ codes)
    (hne : c ≠ .ok) (hinfo : info.isSome = namesInfo c) : EndsBy codes (raisedOutputs { code := c, info := info }) :=
  .raised ⟨hmem, hne, hinfo⟩ rfl

theorem endsBy_raisedWith {codes : List OutcomeCode} {c : OutcomeCode} {info : Option Info} (hmem : c ∈ codes)
    (hne : c ≠ .ok) (hinfo : info.isSome = namesInfo c) : EndsBy codes (raisedWith c info) :=
  endsBy_raisedOutputs hmem hne hinfo

theorem EndsBy.mono {codes codes' : List OutcomeCode} {o : Outputs} (h : EndsBy codes o) (hsub : codes ⊆ codes') :
    EndsBy codes' o := by
  cases h with
  | returned mem outcome info frame => exact .returned (hsub mem) outcome info frame
  | raised table outputs => exact .raised ⟨hsub table.mem, table.ne_ok, table.info⟩ outputs

theorem EndsBy.frame_eq_none {codes : List OutcomeCode} {o : Outputs} (h : EndsBy codes o) : o.frame = none := by
  cases h with
  | returned _ _ _ frame => exact frame
  | raised _ outputs => rw [outputs, raisedOutputs_frame]

theorem EndsBy.without_frame {codes : List OutcomeCode} {o : Outputs} (h : EndsBy codes o) :
    { o with frame := none } = o := h.frame_eq_none ▸ rfl

/-- An end is told from its outcome: which outcomes there are, when there is an info, and that a raise outputs nothing
else. -/
theorem EndsBy.exists_outcome {codes : List OutcomeCode} {o : Outputs} (h : EndsBy codes o) :
    ∃ c ∈ codes, o.outcome = some c ∧ o.info.isSome = namesInfo c ∧ (c ≠ .ok → o = raisedWith c o.info) := by
  cases h with
  | returned mem outcome info _ => exact ⟨.ok, mem, outcome, by rw [info]; rfl, fun hne => absurd rfl hne⟩
  | raised table outputs => subst outputs; exact ⟨_, table.mem, rfl, table.info, fun _ => rfl⟩

/-- Every rejection by the decoder raises what R121's row says (R41, R42, R52, R71, R97). -/
theorem followsTable_raisedOfReject (r : Reject) : (raisedOfReject r).FollowsTable [(raisedOfReject r).code] := by
  cases r <;> exact ⟨List.mem_singleton_self _, nofun, rfl⟩

/-! ### The shared operations -/

theorem f32Outputs_endsBy (o : ByteOrder) (draw : Binary32) (v : Binary64) :
    EndsBy [.ok, .valueError] (f32Outputs o draw v) := by
  unfold f32Outputs f32Of
  split_ifs
  · exact .returned (by decide) rfl rfl rfl
  · exact .returned (by decide) rfl rfl rfl
  · exact endsBy_raisedOutputs (by decide) nofun rfl
  · exact .returned (by decide) rfl rfl rfl

theorem i16Outputs_endsBy (v : Binary64) : EndsBy [.ok, .valueError] (i16Outputs v) := by
  unfold i16Outputs i16Of
  split_ifs
  · exact endsBy_raisedOutputs (by decide) nofun rfl
  · exact .returned (by decide) rfl rfl rfl

/-- The response build, bare or in a frame, returns or raises one of its two errors (R90, R101, R110). -/
theorem doutOutputs_responsePdu_endsBy (mode : Config.BitCoerce) (fc : Byte) (rs : List Word)
    (frame : List Byte → List Byte) :
    EndsBy [.ok, .unsupportedFc, .lengthOverflow] (doutOutputs ((responsePdu mode fc rs).map frame)) := by
  obtain ⟨f, _, _, h⟩ | ⟨f, _, _, h⟩ | ⟨_, h⟩ := responsePdu_cases mode fc rs
  · rw [h]; exact .returned (by decide) rfl rfl rfl
  · rw [h]; exact endsBy_raisedOutputs (by decide) nofun rfl
  · rw [h]; exact endsBy_raisedOutputs (by decide) nofun rfl

/-- A function-code row has a supported function code, so only the length can be wrong (R91 to R94). -/
theorem requestOutputs_endsBy (mode : Config.BitCoerce) (f : FunctionCode) (start qty : Word) (rs : List Word) :
    EndsBy [.ok, .lengthOverflow] (requestOutputs mode f start qty rs) := by
  unfold requestOutputs
  by_cases hfits : ResponseFits f rs.length
  · rw [responsePdu_of_fits mode f rs hfits]; exact .returned (by decide) rfl rfl rfl
  · rw [responsePdu_of_not_fits mode f rs hfits]; exact endsBy_raisedOutputs (by decide) nofun rfl

theorem mbapFrameOutputs_endsBy (din pdu : List Byte) :
    EndsBy [.ok, .unsupportedFc, .malformedPdu] (mbapFrameOutputs din pdu) := by
  unfold mbapFrameOutputs
  split
  · exact endsBy_raisedOutputs (by decide) nofun rfl
  · split
    · exact endsBy_raisedOutputs (by decide) nofun rfl
    · exact .returned (by decide) rfl rfl rfl

theorem mbapOutputs_endsBy (din : List Byte) (eof : Bool) :
    EndsBy (allowedOutcomes .mbapDecode) (mbapOutputs din eof) := by
  obtain ⟨h, -⟩ | ⟨h, -⟩ | ⟨h, -⟩ | ⟨h, -⟩ := mbapOutputs_cases din eof
  · rw [h]; cases eof <;> exact endsBy_raisedWith (by decide) nofun rfl
  · rw [h]; exact endsBy_raisedWith (by decide) nofun rfl
  · rw [h]; cases eof <;> exact endsBy_raisedWith (by decide) nofun rfl
  · rw [h]; exact (mbapFrameOutputs_endsBy din _).mono (by decide)

/-- Of bytes whose trailer matches RTU_DECODE does not end with DROP_CRC (R108, R111). -/
theorem rtuOutputs_endsBy_of_trailerMatches (unitId : Byte) (din : List Byte) (h : trailerMatches din = true) :
    EndsBy [.ok, .dropLength, .dropUnit, .dropFc] (rtuOutputs unitId din) := by
  rw [rtuOutputs_eq, if_neg (show ¬ trailerMatches din = false by simp [h])]
  split_ifs
  · exact endsBy_raisedWith (by decide) nofun rfl
  · exact endsBy_raisedWith (by decide) nofun rfl
  · exact endsBy_raisedWith (by decide) nofun rfl
  · exact .returned (by decide) rfl rfl rfl

theorem rtuOutputs_endsBy (unitId : Byte) (din : List Byte) :
    EndsBy (allowedOutcomes .rtuDecode) (rtuOutputs unitId din) := by
  cases h : trailerMatches din with
  | true => exact (rtuOutputs_endsBy_of_trailerMatches unitId din h).mono (by decide)
  | false =>
    rw [rtuOutputs_eq, if_pos h]
    split_ifs
    · exact endsBy_raisedWith (by decide) nofun rfl
    · exact endsBy_raisedWith (by decide) nofun rfl

/-- RTU_FEED ends as the decoding of a window whose trailer matches does, the window on `frame` apart, or with NO_FRAME
(R111). -/
theorem feedOutputs_endsBy (unitId : Byte) (buf : List Byte) (b : Byte) :
    EndsBy (allowedOutcomes (.rtuFeed b)) { feedOutputs unitId buf with frame := none } := by
  unfold feedOutputs
  cases h : acceptedWindow buf with
  | none => exact endsBy_raisedWith (by simp [allowedOutcomes]) nofun rfl
  | some w =>
    have hw := rtuOutputs_endsBy_of_trailerMatches unitId w (acceptedWindow_matches buf w h)
    exact hw.without_frame.symm ▸ hw.mono (by simp [allowedOutcomes])

/-! ### All instructions -/

/-- Every command but RTU_FEED ends as its row of R121 allows. -/
theorem commandOutputs_endsBy (i : Instr) (s : State) (hfeed : ∀ b, i ≠ .rtuFeed b) :
    EndsBy (allowedOutcomes i) (commandOutputs i s) := by
  cases i
  case encodeF32Order1234 | encodeF32Order2143 | encodeF32Order3412 | encodeF32Order4321 =>
    exact f32Outputs_endsBy _ _ _
  case encodeI16S | encodeI16U => exact i16Outputs_endsBy _
  case pduResponse fc =>
    have h := doutOutputs_responsePdu_endsBy s.params.bitCoerce fc s.inp.results id
    rwa [Except.map_id] at h
  case mbapEncode | rtuEncode => exact doutOutputs_responsePdu_endsBy _ _ _ _
  case mbapDecode => exact mbapOutputs_endsBy _ _
  case rtuDecode => exact rtuOutputs_endsBy _ _
  case rtuFeed b => exact absurd rfl (hfeed b)
  case readCoils | readDiscreteInputs | readHoldingRegisters | readInputRegisters =>
    exact requestOutputs_endsBy _ _ _ _ _
  all_goals exact .returned (List.mem_singleton_self _) rfl rfl rfl

/-- Every command ends as its row of R121 allows, but for the window an RTU_FEED has accepted. -/
theorem commandOutputs_endsBy_but_frame (i : Instr) (s : State) :
    EndsBy (allowedOutcomes i) { commandOutputs i s with frame := none } := by
  by_cases hfeed : ∃ b, i = .rtuFeed b
  · obtain ⟨b, rfl⟩ := hfeed
    exact feedOutputs_endsBy _ _ b
  · have h := commandOutputs_endsBy i s (not_exists.1 hfeed)
    exact h.without_frame.symm ▸ h

/-- Only RTU_FEED outputs a frame (R111). -/
theorem rtuFeed_of_commandOutputs_frame_ne (i : Instr) (s : State) (h : (commandOutputs i s).frame ≠ none) :
    ∃ b, i = .rtuFeed b := by
  by_contra hfeed
  exact h (commandOutputs_endsBy i s (not_exists.1 hfeed)).frame_eq_none

end Sys2Proof.Machine
end

section
/-!
SUPPORT. The outcome statements (spec/60_exceptions.md R121 to R124, R129): O8 and O14 to O18.
-/
namespace Sys2Proof.Machine

/-! ### Outcome numbers (R121) -/

/-- The outcomes in the order of R121's table. -/
def outcomeTable : List OutcomeCode :=
  [.ok, .needMore, .noFrame, .closedHeader, .closedPdu, .malformedLength, .malformedPdu, .unsupportedFc, .dropUnit,
    .dropFc, .dropLength, .dropCrc, .configType, .configOrder, .valueError, .lengthOverflow, .badCommand]

theorem mem_outcomeTable (c : OutcomeCode) : c ∈ outcomeTable := by cases c <;> decide

theorem outcomeTable_numbers_nodup : (outcomeTable.map outcomeNumber).Nodup := by decide

theorem outcomeNumber_injective : Function.Injective outcomeNumber := fun a b =>
  List.inj_on_of_nodup_map outcomeTable_numbers_nodup (mem_outcomeTable a) (mem_outcomeTable b)

/-- Settles O18. -/
theorem outcomeNumbersAreDistinct : Obligations.OutcomeNumbersAreDistinct :=
  ⟨fun _ _ h => outcomeNumber_injective h, by decide⟩

/-! ### Every command ends, with an outcome of its row -/

/-- Presented bits either run the instruction they decode to or end as their rejection; both put outputs on the ports. -/
theorem runCode_cases (c : Code) (s : State) :
    (∃ i, decode c = .instr i ∧ runCode c s = .next (setOut (writtenState i s) (commandOutputs i s))) ∨
      ∃ r, decode c = .reject r ∧ runCode c s = .next (setOut s (raisedOutputs (raisedOfReject r))) := by
  cases h : decode c with
  | instr i => exact .inl ⟨i, rfl, (runCode_instr c i s h).trans (exec_eq_emit_commandOutputs i s)⟩
  | reject r => exact .inr ⟨r, rfl, runCode_reject c r s h⟩

/-- Settles O16. -/
theorem outcomesAreTheNamedOnes : Obligations.OutcomesAreTheNamedOnes := by
  intro i s
  obtain ⟨c, hmem, houtcome, -⟩ := (commandOutputs_endsBy_but_frame i s).exists_outcome
  exact ⟨_, c, exec_eq_emit_commandOutputs i s, houtcome, hmem⟩

/-- Settles O15: an instruction ends with one of its row's outcomes, and a rejection with its own. -/
theorem everyCommandEndsWithAnOutcome : Obligations.EveryCommandEndsWithAnOutcome := by
  intro c s
  obtain ⟨i, -, hrun⟩ | ⟨r, -, hrun⟩ := runCode_cases c s
  · obtain ⟨code, -, houtcome, -⟩ := (commandOutputs_endsBy_but_frame i s).exists_outcome
    exact ⟨_, code, hrun, houtcome⟩
  · exact ⟨_, _, hrun, rfl⟩

/-- Settles O8: a command runs to its end or, in reset, is dropped, and every other host event is one update. -/
theorem everyStepProceeds : Obligations.EveryStepProceeds := by
  intro s
  cases hbox : s.inbox with
  | nil => exact ⟨_, step_idle s hbox⟩
  | cons e rest =>
    cases e with
    | present c ports =>
      rw [Proceeds, step_present s c ports rest hbox]
      cases hreset : s.inReset with
      | true => exact ⟨_, if_pos hreset⟩
      | false =>
        rw [runPresented_outside c ports (popEvent s rest) hreset]
        obtain ⟨t, -, hrun, -⟩ := everyCommandEndsWithAnOutcome c (presentPorts (popEvent s rest) ports)
        exact ⟨t, hrun⟩
    | assertReset => exact ⟨_, step_assertReset s rest hbox⟩
    | configure u => exact ⟨_, step_configure s u rest hbox⟩
    | releaseReset => exact ⟨_, step_releaseReset s rest hbox⟩

/-! ### What a failed command leaves (R122, R123) -/

/-- The outputs of presented bits that have run, without the window an RTU_FEED has accepted, are an end of R121, and no
other command has a frame. -/
theorem endsBy_of_runCode (c : Code) (s t : State) (ht : runCode c s = .next t) :
    (∃ codes, EndsBy codes { t.out with frame := none }) ∧
      (t.out.frame ≠ none → ∃ b, decode c = .instr (.rtuFeed b)) := by
  obtain ⟨i, hcode, hrun⟩ | ⟨r, -, hrun⟩ := runCode_cases c s
  · obtain rfl := Host.Outcome.next.inj (hrun ▸ ht)
    refine ⟨⟨_, commandOutputs_endsBy_but_frame i s⟩, fun hframe => ?_⟩
    obtain ⟨b, rfl⟩ := rtuFeed_of_commandOutputs_frame_ne i s hframe
    exact ⟨b, hcode⟩
  · obtain rfl := Host.Outcome.next.inj (hrun ▸ ht)
    exact ⟨⟨_, .raised (followsTable_raisedOfReject r) rfl⟩, fun hframe => absurd rfl hframe⟩

/-- Settles O17. -/
theorem infoFollowsTheOutcome : Obligations.InfoFollowsTheOutcome := by
  intro c s t code ht hcode
  obtain ⟨⟨codes, hend⟩, hframe⟩ := endsBy_of_runCode c s t ht
  obtain ⟨code', -, houtcome, hinfo, hraise⟩ := hend.exists_outcome
  obtain rfl : code' = code := Option.some.inj (houtcome.symm.trans hcode)
  refine ⟨hinfo, fun hne => ?_, hframe⟩
  have hrest : { t.out with frame := none } = raisedWith code' t.out.info := hraise hne
  exact congrArg (fun o : Outputs => { o with frame := t.out.frame }) hrest

/-- The use of a draw goes with a NaN, and an ENCODE of a NaN returns OK (R74): an ENCODE of Float32 that fails has used
none. -/
theorem afterDraw_of_f32Outputs_ne_ok (o : ByteOrder) (draw : Binary32) (s : State)
    (h : (f32Outputs o draw s.inp.value).outcome ≠ some .ok) : afterDraw s = s := by
  apply afterDraw_of_not_isNaN
  by_contra hnan
  exact h (by simp [f32Outputs, f32Of, hnan])

/-- A command other than RTU_FEED that fails has written nothing (R123). -/
theorem writtenState_of_outcome_ne_ok (i : Instr) (s : State) (hfeed : ∀ b, i ≠ .rtuFeed b)
    (h : (commandOutputs i s).outcome ≠ some .ok) : writtenState i s = s := by
  cases i
  case crcInit | crcUpdate => exact absurd rfl h
  case encodeF32Order1234 | encodeF32Order2143 | encodeF32Order3412 | encodeF32Order4321 =>
    exact afterDraw_of_f32Outputs_ne_ok _ _ s h
  case rtuFeed b => exact absurd rfl (hfeed b)
  all_goals rfl

/-- The bytes RTU_FEED keeps are told from its outcome: all of them with NO_FRAME, none otherwise (R111). -/
theorem keptBytes_eq_ite_noFrame (unitId : Byte) (buf : List Byte) :
    keptBytes buf = if (feedOutputs unitId buf).outcome = some .noFrame then buf else [] := by
  cases h : acceptedWindow buf with
  | none => simp [keptBytes, feedOutputs, h]
  | some w => simp [keptBytes, feedOutputs, h, rtuOutputs_outcome_ne_noFrame]

/-- Settles O14. -/
theorem failedCommandsWriteNoState : Obligations.FailedCommandsWriteNoState := by
  intro c s t ht hfailed
  obtain ⟨i, hcode, hrun⟩ | ⟨r, hcode, hrun⟩ := runCode_cases c s
  · obtain rfl := Host.Outcome.next.inj (hrun ▸ ht)
    refine ⟨fun hfeed => ?_, fun b hb => ?_⟩
    · have hwritten := writtenState_of_outcome_ne_ok i s (fun b hi => hfeed b (hi ▸ hcode)) hfailed
      rw [hwritten]
      rfl
    · obtain rfl := Decoded.instr.inj (hcode.symm.trans hb)
      rw [bufferAfterFeed_eq_appendByte]
      exact congrArg (fun buf => setOut (setRtuBuf s buf) (commandOutputs (.rtuFeed b) s))
        (keptBytes_eq_ite_noFrame s.unitId _)
  · obtain rfl := Host.Outcome.next.inj (hrun ▸ ht)
    exact ⟨fun _ => rfl, fun b hb => nomatch hcode.symm.trans hb⟩

end Sys2Proof.Machine
end

section
/-!
SUPPORT. The steps a block takes while reset is asserted, and the boot order they make (spec/70_reset_and_hazards.md
R135, R137, R138): O10. `assertReset (popEvent s rest)` is the block of `s` held in reset, with `rest` still to come.
-/
namespace Sys2Proof.Machine

/-- In reset a presented command has no effect (R135). -/
theorem runPresented_inside (c : Code) (ports : Inputs) (s : State) (h : s.inReset = true) :
    runPresented c ports s = .next (clearPorts s) := by
  simp [runPresented, h]

/-- While reset is asserted a command is dropped (R135, assumption 5). -/
theorem step_assertReset_present (s : State) (c : Code) (ports : Inputs) (rest : List HostEvent) :
    step (assertReset (popEvent s (.present c ports :: rest))) = .next (assertReset (popEvent s rest)) := by
  rw [step_present _ c ports rest rfl, runPresented_inside c ports _ rfl]
  rfl

/-- While reset is asserted a configuration writes `UNIT_ID` (R17, R127, R138). -/
theorem step_assertReset_configure (s : State) (u : Byte) (rest : List HostEvent) :
    step (assertReset (popEvent s (.configure u :: rest))) =
      .next (assertReset (popEvent { s with unitId := u } rest)) := by
  rw [step_configure _ u rest rfl, configureUnit_inside _ u rfl]
  rfl

/-- Releasing reset sets the registers again, so that they were set at its assertion leaves no trace (R135,
assumption 16). -/
theorem step_assertReset_releaseReset (s : State) (rest : List HostEvent) :
    step (assertReset (popEvent s (.releaseReset :: rest))) = .next (releaseReset (popEvent s rest)) :=
  step_releaseReset (assertReset (popEvent s (.releaseReset :: rest))) rest rfl

/-- Settles O10: reset stays asserted from the first of the four steps to the last, so the command is dropped and the
configuration is written. -/
theorem resetSequenceLeavesResetValues : Obligations.ResetSequenceLeavesResetValues := by
  intro s c ports u rest hbox
  calc Host.Core.run core 4 s
    _ = Host.Core.run core 3 (assertReset (popEvent s (.present c ports :: .configure u :: .releaseReset :: rest))) :=
      run_succ_of_step core 3 _ _ (step_assertReset s _ hbox)
    _ = Host.Core.run core 2 (assertReset (popEvent s (.configure u :: .releaseReset :: rest))) :=
      run_succ_of_step core 2 _ _ (step_assertReset_present s c ports _)
    _ = Host.Core.run core 1 (assertReset (popEvent { s with unitId := u } (.releaseReset :: rest))) :=
      run_succ_of_step core 1 _ _ (step_assertReset_configure s u _)
    _ = .next (releaseReset (popEvent { s with unitId := u } rest)) :=
      run_succ_of_step core 0 _ _ (step_assertReset_releaseReset _ rest)

end Sys2Proof.Machine
end
